-- ==== Sys2Proof/Word.lean ====
section
/-! DEFINITION. The words of the CORE (spec/00_scope.md R9, R11): bit vectors numbered from 0 at the least
significant bit. `v[hi:lo]` of the spec is `extractLsb'` of a start and a width. -/

namespace Sys2Proof

/-- A u8 of the spec. -/
abbrev Byte := BitVec 8

/-- A u16 or s16 of the spec; a signed reading is `BitVec.toInt`. -/
abbrev Half := BitVec 16

/-- A u32 of the spec: the command word, `RESP`, the clock phase. -/
abbrev Word := BitVec 32

/-- A u24 of the spec: the oscillator's 16.8 fixed-point phase (R49). -/
abbrev Phase24 := BitVec 24

/-- A 12-bit unsigned output sample (R51). -/
abbrev Sample := BitVec 12

end Sys2Proof
end

