-- ==== Sys2Proof/Syntax.lean ====
section
/-! DEFINITION. The commands of the CORE (spec/30_encoding.md R104), one constructor per row of
spec/opcode_table.json, and the syntax of the command word (R102) and of assembler operands (R106, R109). -/

namespace Sys2Proof

/-- The five formats of a command word (R102). -/
inductive Format where
  | N
  | B
  | H
  | BH
  | BV
  deriving DecidableEq, Repr

/-- A command (R104). Each operand is the field of the command word that carries it, at that field's width; R106's
signed readings (`amount` of CLK_WRAP, `p` of OSC_SET_PITCH) are in Machine/Operands.lean. -/
inductive Instr where
  | read (reg : Byte)
  | rndUpdate
  | rndSeed (v : Half)
  | rndState
  | rndByte
  | clkInit
  | clkUpdate (res : Byte) (bpm : Half)
  | clkTick
  | clkWrap (amount : Byte)
  | clkReset
  | clkLock
  | clkUnlock
  | clkRising
  | clkFallen
  | clkLocked
  | pgInit
  | pgReset
  | pgTick (n : Byte)
  | pgSet (idx : Byte) (v : Byte)
  | pgState
  | pgStep
  | oscInit
  | oscSetPitch (p : Half)
  | oscSetShape (shape : Byte)
  | oscSetGate (g : Byte)
  | oscSetPw (w : Byte)
  | oscRender
  deriving DecidableEq, Repr

/-- Why a word is no command (R108): the decoder's two rejections. -/
inductive DecodeError where
  /-- The `OPC` is unassigned (R105). -/
  | illegalOpcode
  /-- The `OPC` is assigned and a reserved bit of its format is 1 (R103). -/
  | reservedField
  deriving DecidableEq, Repr

/-- The numeric type of an operand as the assembler writes it (R106, R109). -/
inductive OperandKind where
  | u8
  | s8
  | u16
  | s16
  deriving DecidableEq, Repr

/-- An operand as the assembler writes it: an integer with the type its field gives it. -/
structure Operand where
  kind : OperandKind
  value : Int
  deriving DecidableEq, Repr

end Sys2Proof
end

