-- ==== Sys2Proof/WellFormed.lean ====
section
/-! DEFINITION. Well-formedness of operands (spec/30_encoding.md R106, R109): "An operand out of its field's range
(rule R106) is an assembly error, not a command." An `Instr` holds each operand in its field's exact width, so every
`Instr` is well formed; the check bites on operands that come from outside as integers. -/

namespace Sys2Proof

/-- The range of an operand's field (R106). -/
def Operand.inRange (o : Operand) : Bool :=
  match o.kind with
  | .u8 => decide (0 ≤ o.value ∧ o.value ≤ 255)
  | .s8 => decide (-128 ≤ o.value ∧ o.value ≤ 127)
  | .u16 => decide (0 ≤ o.value ∧ o.value ≤ 65535)
  | .s16 => decide (-32768 ≤ o.value ∧ o.value ≤ 32767)

/-- A command's operands as the assembler writes them, in R104's order. -/
def Instr.operands : Instr → List Operand
  | .read reg => [⟨.u8, reg.toNat⟩]
  | .rndUpdate => []
  | .rndSeed v => [⟨.u16, v.toNat⟩]
  | .rndState => []
  | .rndByte => []
  | .clkInit => []
  | .clkUpdate res bpm => [⟨.u8, res.toNat⟩, ⟨.u16, bpm.toNat⟩]
  | .clkTick => []
  | .clkWrap amount => [⟨.s8, amount.toInt⟩]
  | .clkReset => []
  | .clkLock => []
  | .clkUnlock => []
  | .clkRising => []
  | .clkFallen => []
  | .clkLocked => []
  | .pgInit => []
  | .pgReset => []
  | .pgTick n => [⟨.u8, n.toNat⟩]
  | .pgSet idx v => [⟨.u8, idx.toNat⟩, ⟨.u8, v.toNat⟩]
  | .pgState => []
  | .pgStep => []
  | .oscInit => []
  | .oscSetPitch p => [⟨.s16, p.toInt⟩]
  | .oscSetShape shape => [⟨.u8, shape.toNat⟩]
  | .oscSetGate g => [⟨.u8, g.toNat⟩]
  | .oscSetPw w => [⟨.u8, w.toNat⟩]
  | .oscRender => []

/-- Every operand lies in its field's range. -/
def Instr.wellFormed (i : Instr) : Bool := i.operands.all Operand.inRange

end Sys2Proof
end

