-- ==== Sys2Proof/Decode.lean ====
section
/-! DEFINITION. The command word (spec/30_encoding.md R101 to R108): the decoder, total on every 32-bit word, and the
encoder, both written from the opcode map of R104. -/

namespace Sys2Proof

/-- `OPC = word[31:24]` (R101). -/
def opcField (w : Word) : Byte := w.extractLsb' 24 8

/-- `B = word[23:16]` (R101). -/
def bField (w : Word) : Byte := w.extractLsb' 16 8

/-- `H = word[15:0]` (R101). -/
def hField (w : Word) : Half := w.extractLsb' 0 16

/-- The bits a format reserves (R102). -/
def reservedMask : Format → Word
  | .N => 0x00FFFFFF
  | .B => 0x0000FFFF
  | .H => 0x00FF0000
  | .BH => 0x00000000
  | .BV => 0x0000FF00

/-- The row of R104 that an opcode names: its format, and the command assembled from `B` and `H` (R106). -/
def opcodeRow (opc : Byte) : Option (Format × (Byte → Half → Instr)) :=
  match opc with
  | 0x01#8 => some (.B, fun b _ => .read b)
  | 0x10#8 => some (.N, fun _ _ => .rndUpdate)
  | 0x11#8 => some (.H, fun _ h => .rndSeed h)
  | 0x12#8 => some (.N, fun _ _ => .rndState)
  | 0x13#8 => some (.N, fun _ _ => .rndByte)
  | 0x20#8 => some (.N, fun _ _ => .clkInit)
  | 0x21#8 => some (.BH, fun b h => .clkUpdate b h)
  | 0x22#8 => some (.N, fun _ _ => .clkTick)
  | 0x23#8 => some (.B, fun b _ => .clkWrap b)
  | 0x24#8 => some (.N, fun _ _ => .clkReset)
  | 0x25#8 => some (.N, fun _ _ => .clkLock)
  | 0x26#8 => some (.N, fun _ _ => .clkUnlock)
  | 0x27#8 => some (.N, fun _ _ => .clkRising)
  | 0x28#8 => some (.N, fun _ _ => .clkFallen)
  | 0x29#8 => some (.N, fun _ _ => .clkLocked)
  | 0x30#8 => some (.N, fun _ _ => .pgInit)
  | 0x31#8 => some (.N, fun _ _ => .pgReset)
  | 0x32#8 => some (.B, fun b _ => .pgTick b)
  | 0x33#8 => some (.BV, fun b h => .pgSet b (h.extractLsb' 0 8))
  | 0x34#8 => some (.N, fun _ _ => .pgState)
  | 0x35#8 => some (.N, fun _ _ => .pgStep)
  | 0x40#8 => some (.N, fun _ _ => .oscInit)
  | 0x41#8 => some (.H, fun _ h => .oscSetPitch h)
  | 0x42#8 => some (.B, fun b _ => .oscSetShape b)
  | 0x43#8 => some (.B, fun b _ => .oscSetGate b)
  | 0x44#8 => some (.B, fun b _ => .oscSetPw b)
  | 0x45#8 => some (.N, fun _ _ => .oscRender)
  | _ => none

/-- Decoding (R105, R103, in the order of R294): the opcode first, the reserved bits next. -/
def decode (w : Word) : Except DecodeError Instr :=
  match opcodeRow (opcField w) with
  | none => .error .illegalOpcode
  | some (format, build) =>
    if w &&& reservedMask format = 0 then .ok (build (bField w) (hField w)) else .error .reservedField

/-- The word with the given fields (R101). -/
def commandWord (opc b : Byte) (h : Half) : Word := opc ++ b ++ h

/-- The encoder (R104): each unused field is zero, as R103 asks. -/
def encode : Instr → Word
  | .read reg => commandWord 0x01 reg 0
  | .rndUpdate => commandWord 0x10 0 0
  | .rndSeed v => commandWord 0x11 0 v
  | .rndState => commandWord 0x12 0 0
  | .rndByte => commandWord 0x13 0 0
  | .clkInit => commandWord 0x20 0 0
  | .clkUpdate res bpm => commandWord 0x21 res bpm
  | .clkTick => commandWord 0x22 0 0
  | .clkWrap amount => commandWord 0x23 amount 0
  | .clkReset => commandWord 0x24 0 0
  | .clkLock => commandWord 0x25 0 0
  | .clkUnlock => commandWord 0x26 0 0
  | .clkRising => commandWord 0x27 0 0
  | .clkFallen => commandWord 0x28 0 0
  | .clkLocked => commandWord 0x29 0 0
  | .pgInit => commandWord 0x30 0 0
  | .pgReset => commandWord 0x31 0 0
  | .pgTick n => commandWord 0x32 n 0
  | .pgSet idx v => commandWord 0x33 idx ((0 : Byte) ++ v)
  | .pgState => commandWord 0x34 0 0
  | .pgStep => commandWord 0x35 0 0
  | .oscInit => commandWord 0x40 0 0
  | .oscSetPitch p => commandWord 0x41 0 p
  | .oscSetShape shape => commandWord 0x42 shape 0
  | .oscSetGate g => commandWord 0x43 g 0
  | .oscSetPw w => commandWord 0x44 w 0
  | .oscRender => commandWord 0x45 0 0

/-- Byte `k` of a word: byte 0 is bits 7:0 and byte 3 is bits 31:24 (R87). -/
def wordByte (w : Word) (k : Fin 4) : Byte := w.extractLsb' (8 * k.val) 8

/-- The word a host that moves bytes puts together, byte 0 first (R87). -/
def wordOfBytes (b0 b1 b2 b3 : Byte) : Word := b3 ++ b2 ++ b1 ++ b0

/-- The command word whose low `nbits` bits are `w`'s and whose other bits are 0. -/
def tableWord (nbits w : Nat) : Word := BitVec.ofNat 32 (w % 2 ^ nbits)

/-- The command the decoder reads from an opcode-table word. -/
def decodeTableWord (nbits w : Nat) : Option Instr :=
  match decode (tableWord nbits w) with
  | .ok i => some i
  | .error _ => none

end Sys2Proof
end

