-- ==== Sys2Proof/Config.lean ====
section
/-! DEFINITION. The implementation parameters (spec/00_scope.md R8). The spec names these tables and constants and
gives most of them no value: "A model takes each parameter as an argument." Every operation of the machine that
reads one takes a `Params`; the machine itself runs at the one opaque `Config.params`, so that whatever is proved
about it holds for every legal parameter set. -/

namespace Sys2Proof

/-- The block's identity string (R2). -/
def Config.identity : String := "VCVRack-Rack-sub008-CORE"

/-- The version in the identity (R2). -/
def Config.version : String := "spec-1"

/-- The oscillator's six shapes (R250). The codes are `Machine.shapeCode`. -/
inductive Shape where
  | sine
  | triangle
  | nesTriangle
  | nesNoiseShort
  | nesNoiseLong
  | noise
  deriving DecidableEq, Repr

/-- `PG_CLKMODE_BIT4` (R8): what bit 4 of the pattern state shows when `output_clock` is set. -/
inductive Bit4Source where
  | zero
  | clock
  deriving DecidableEq, Repr

/-- One legal set of the parameters of R8. The proof fields are R8's constraints together with those of R160, R161
and R258, so a parameter set that breaks one cannot be built: this is the refusal before reset that R320 asks for.

The values after `:=` are R8's defaults where R8 gives one (`clkBpmMin`, `clkBpmMax`, `pgClkmodeBit4`). Everywhere
else they only show Lean that a legal set exists, which an opaque constant needs; no definition reads them. -/
structure Params where
  /-- `DRUM_MAP`: 25 maps of 96 levels (R80, R81). -/
  drumMap : Fin 25 → Fin 96 → Byte := fun _ _ => 0
  /-- `EUCLID_LUT`: 1024 pattern words (R80, R82). -/
  euclidLut : Fin 1024 → Word := fun _ => 0
  /-- `WAVE_TRI`: 8 zones of 257 entries (R80, R83). -/
  waveTri : Fin 8 → Fin 257 → Sample := fun _ _ => 0
  /-- `WAVE_NES`: 8 zones of 257 entries (R80, R83). -/
  waveNes : Fin 8 → Fin 257 → Sample := fun _ _ => 0
  /-- `OSC_INC_TABLE`: 97 phase increments over one octave (R80, R84). -/
  oscIncTable : Fin 97 → Phase24 := fun _ => 0
  /-- `AUX_INC_TABLE`: one increment for each of the 256 values of `OSC.cv_pw` (R80, R85). -/
  auxIncTable : Byte → Half := fun _ => 0
  /-- `OSC_REF_PITCH`, s16. -/
  oscRefPitch : Half := 0
  /-- `OSC_PITCH_MIN`, s16. -/
  oscPitchMin : Half := 0
  /-- `OSC_PITCH_MAX`, s16. -/
  oscPitchMax : Half := 0
  /-- `OSC_PITCH_RESET`, s16. -/
  oscPitchReset : Half := 0
  /-- `OSC_SHAPE_RESET`, one of the six assigned codes. -/
  oscShapeReset : Shape := .sine
  /-- `OSC_RNG_RESET`. -/
  oscRngReset : Half := 1
  /-- `OSC_BLOCK`, samples per render. -/
  oscBlock : Nat := 1
  /-- `FIFO_DEPTH`, capacity of the sample FIFO. -/
  fifoDepth : Nat := 1
  /-- `clockIncrement(bpm, res)` (R161). -/
  clockIncrement : Half → BitVec 2 → Word := fun _ _ => 1
  /-- `CLK_BPM_MIN`. -/
  clkBpmMin : Half := 30
  /-- `CLK_BPM_MAX`. -/
  clkBpmMax : Half := 480
  /-- `CLK_INIT_BPM`. -/
  clkInitBpm : Half := 30
  /-- `CLK_INIT_RES`. -/
  clkInitRes : BitVec 2 := 0
  /-- `RND_SEED_RESET`. -/
  rndSeedReset : Half := 1
  /-- `PG_SETTINGS_RESET`: opt 0..2, density 0..2, packed options (R190). -/
  pgSettingsReset : Fin 7 → Byte := fun _ => 0
  /-- `PG_CLKMODE_BIT4`. -/
  pgClkmodeBit4 : Bit4Source := .zero
  rndSeedReset_ne_zero : rndSeedReset ≠ 0 := by decide
  oscRngReset_ne_zero : oscRngReset ≠ 0 := by decide
  oscBlock_pos : 1 ≤ oscBlock := by decide
  oscBlock_le_fifoDepth : oscBlock ≤ fifoDepth := by decide
  oscPitchMax_le : oscPitchMax.toInt ≤ oscRefPitch.toInt + 1535 := by decide
  oscPitchMin_le_reset : oscPitchMin.toInt ≤ oscPitchReset.toInt := by decide
  oscPitchReset_le_max : oscPitchReset.toInt ≤ oscPitchMax.toInt := by decide
  clkBpmMin_le_init : clkBpmMin ≤ clkInitBpm := by decide
  clkInitBpm_le_max : clkInitBpm ≤ clkBpmMax := by decide
  clkInitRes_le : clkInitRes ≤ 2 := by decide
  clockIncrement_legal : ∀ bpm res, clkBpmMin ≤ bpm → bpm ≤ clkBpmMax → res ≤ 2#2 →
      1 ≤ (clockIncrement bpm res).toNat ∧ (clockIncrement bpm res).toNat < 2 ^ 31 := by
    intro _ _ _ _ _; decide
  deriving Inhabited

/-- The parameters this machine was built with: some legal set, and nothing more is known of it (assumption 1). -/
opaque Config.params : Params

/-- What a read of `OSC_INC_TABLE` past its 97 entries would give. A free value: nothing constrains it. Only a state
whose pitch lies above `OSC_REF_PITCH + 1535` reads it, and no run reaches such a state (R86, R257; assumption 2). -/
opaque Config.oscIncBeyond : Nat → Phase24

end Sys2Proof
end

