-- ==== Sys2Proof/Machine/Units.lean ====
section
/-! DEFINITION. The plain data State is made of: the registers of the four units (spec/10_state.md R35 to R57), the
cause names (spec/60_exceptions.md R292) and the host's actions at the ports (R305, spec/20_memory.md R92). -/

namespace Sys2Proof.Machine

/-- Three like cells, one per part 0, 1, 2 of the pattern generator (R41, R42, R46, R47). -/
structure Triple (α : Type) where
  p0 : α
  p1 : α
  p2 : α
  deriving DecidableEq, Repr

/-- `output_mode` (R43). -/
inductive OutputMode where
  | euclidean
  | drums
  deriving DecidableEq, Repr

/-- The mode fields that `pack()` packs into one byte (R43). `clock_resolution` is 0, 1 or 2 and nothing else. -/
structure Options where
  clockResolution : Fin 3
  swing : Bool
  tapTempo : Bool
  outputClock : Bool
  outputMode : OutputMode
  gateMode : Bool
  deriving DecidableEq, Repr

/-- The CLK unit's registers (R36 to R40). -/
structure Clk where
  /-- `CLK.bpm`, u16 (R36). -/
  bpm : Half
  /-- `CLK.phase`, u32 (R37). -/
  phase : Word
  /-- `CLK.phase_increment`, u32 (R38). -/
  phaseIncrement : Word
  /-- `CLK.falling_edge`, u8 (R39). -/
  fallingEdge : Byte
  /-- `CLK.locked`, u1 (R40). -/
  locked : Bool
  deriving DecidableEq, Repr

/-- The PG unit's registers (R41 to R48). -/
structure Pg where
  /-- `PG.opt[0..2]`: `x`, `y`, `randomness`, the same cells as `euclidean_length[0..2]` (R41). -/
  opt : Triple Byte
  /-- `PG.density[0..2]` (R42). -/
  density : Triple Byte
  /-- `PG.options` (R43). -/
  options : Options
  /-- `PG.pulse`, u8 (R44). -/
  pulse : Byte
  /-- `PG.step`, u5 (R45). -/
  step : BitVec 5
  /-- `PG.euclidean_step[0..2]`, u8 (R46). -/
  euclideanStep : Triple Byte
  /-- `PG.part_perturbation[0..2]`, u8 (R47). -/
  partPerturbation : Triple Byte
  /-- `PG.state`, u8: random bit, clock bit, three mode bits, three triggers (R48). -/
  state : Byte
  deriving DecidableEq, Repr

/-- The OSC unit's registers (R49 to R57). -/
structure Osc where
  /-- `OSC.phase`, u24 (R49). -/
  phase : Phase24
  /-- `OSC.phase_increment`, u24 (R49). -/
  phaseIncrement : Phase24
  /-- `OSC.aux_phase`, u16 (R50). -/
  auxPhase : Half
  /-- `OSC.sample`, u12 (R51). -/
  sample : Sample
  /-- `OSC.rng`, u16 (R52). -/
  rng : Half
  /-- `OSC.shape`: the assigned codes 0 to 5 of a u3 (R53). -/
  shape : Shape
  /-- `OSC.gate`, u1 (R54). -/
  gate : Bool
  /-- `OSC.pitch`, s16 (R55). -/
  pitch : Half
  /-- `OSC.note`, s16 (R55). -/
  note : Half
  /-- `OSC.cv_pw`, u8 (R56). -/
  cvPw : Byte
  /-- `OSC.dirty`, u1 (R57). -/
  dirty : Bool
  deriving DecidableEq, Repr

/-- The causes of R292, by name. The codes are `Machine.causeCode`. -/
inductive Cause where
  | illegalOpcode
  | reservedField
  | badRegister
  | seedZero
  | badResolution
  | bpmRange
  | badSwing
  | badIndex
  | badShape
  | badGate
  | pitchRange
  | bufferFull
  deriving DecidableEq, Repr

/-- The ports of R305 that the host reads. -/
inductive Port where
  | response
  | status
  | pattern
  | sampleHead
  deriving DecidableEq, Repr

/-- What the host can do to the CORE, one action at a command boundary (R92, R302, R305). -/
inductive HostAction where
  /-- A command word is presented at the command port. -/
  | command (w : Word)
  /-- A CORE-to-host port is read. -/
  | readPort (p : Port)
  /-- The oldest sample is removed from the FIFO head. -/
  | removeSample
  /-- The reset input is asserted. -/
  | reset
  deriving DecidableEq, Repr

end Sys2Proof.Machine
end

