-- ==== Sys2Proof/Machine/Operands.lean ====
section
/-! DEFINITION. Operand forms and the fixed-point arithmetic the units share: signed operands (spec/30_encoding.md
R106), the notation of spec/00_scope.md R12, the packed options byte (spec/42_pattern.md R210, R211), the Galois step
(spec/40_lfsr.md R140) and the code tables of R250 and R292. Arithmetic is on mathematical integers, narrowed at the
end (R12). -/

namespace Sys2Proof.Machine

/-- Cell `i` of three. -/
def Triple.get {α : Type} (t : Triple α) (i : Fin 3) : α :=
  match i with
  | 0 => t.p0
  | 1 => t.p1
  | 2 => t.p2

/-- The three cells with cell `i` replaced. -/
def Triple.set {α : Type} (t : Triple α) (i : Fin 3) (v : α) : Triple α :=
  match i with
  | 0 => { t with p0 := v }
  | 1 => { t with p1 := v }
  | 2 => { t with p2 := v }

/-- The spec's `for i in 0..2`. -/
def Triple.ofFn {α : Type} (f : Fin 3 → α) : Triple α := ⟨f 0, f 1, f 2⟩

/-- `amount = sext(B)`, the s8 of CLK_WRAP (R106). -/
def swingAmount (b : Byte) : Int := b.toInt

/-- `p = sext(H)`, the s16 of OSC_SET_PITCH, and the reading of every pitch register (R55, R106). -/
def pitchValue (h : Half) : Int := h.toInt

/-- `v >> k` on a signed value: the floor of `v / 2^k` (R12). -/
def asr (v : Int) (k : Nat) : Int := v / 2 ^ k

/-- `a + (((b - a) * w) >> k)`, signed difference and floor shift: the interpolation of R257, R261 and R262. -/
def lerp (a b : Int) (w k : Nat) : Int := a + asr ((b - a) * w) k

/-- `U8Mix(a, b, w)` (R197). -/
def u8Mix (a b w : Byte) : Byte :=
  BitVec.ofNat 8 ((a.toNat * (255 - w.toNat) + b.toNat * w.toNat) >>> 8)

/-- `GaloisStep` (R140): a right shift, and the tap mask when the bit shifted out is 1. -/
def galoisStep (s : Half) : Half :=
  if s.getLsbD 0 then (s >>> 1) ^^^ 0xB400#16 else s >>> 1

/-- `NesStep(r, tap)` (R265): `r[0] XOR r[tap]` shifted in at bit 14. -/
def nesStep (tap : Nat) (r : Half) : Half :=
  (r >>> 1) ||| ((BitVec.ofBool (r.getLsbD 0 ^^ r.getLsbD tap)).setWidth 16 <<< 14)

/-- The top byte of an LFSR state, `GetByte()` (R143). -/
def topByte (s : Half) : Byte := s.extractLsb' 8 8

/-- The shape codes of R250. -/
def shapeCode : Shape → BitVec 3
  | .sine => 0
  | .triangle => 1
  | .nesTriangle => 2
  | .nesNoiseShort => 3
  | .nesNoiseLong => 4
  | .noise => 5

/-- The shape an OSC_SET_SHAPE operand names; none above 5 (R250, R252). -/
def shapeOfOperand (s : Byte) : Option Shape :=
  match s.toNat with
  | 0 => some .sine
  | 1 => some .triangle
  | 2 => some .nesTriangle
  | 3 => some .nesNoiseShort
  | 4 => some .nesNoiseLong
  | 5 => some .noise
  | _ => none

/-- The noise shapes, codes 3 to 5 (R250, R255). -/
def isNoise (s : Shape) : Bool := decide (3 ≤ (shapeCode s).toNat)

/-- The cause codes of R292. Code 0, NONE, is no cause that a fault raises. -/
def causeCode : Cause → Byte
  | .illegalOpcode => 1
  | .reservedField => 2
  | .badRegister => 3
  | .seedZero => 4
  | .badResolution => 5
  | .bpmRange => 6
  | .badSwing => 7
  | .badIndex => 8
  | .badShape => 9
  | .badGate => 10
  | .pitchRange => 11
  | .bufferFull => 12

/-- `pack(o)` (R210): bit 7 `!gate_mode`, 6 DRUMS, 5 `output_clock`, 4 `tap_tempo`, 3 `!swing`, 2:0 the resolution. -/
def pack (o : Options) : Byte :=
  BitVec.ofBool (!o.gateMode) ++ BitVec.ofBool (decide (o.outputMode = .drums)) ++ BitVec.ofBool o.outputClock ++
    BitVec.ofBool o.tapTempo ++ BitVec.ofBool (!o.swing) ++ BitVec.ofNat 3 o.clockResolution.val

/-- `unpack(v)` (R211): the inverse of `pack`, the resolution clamped to 2. -/
def unpack (v : Byte) : Options where
  clockResolution := ⟨min (v.extractLsb' 0 3).toNat 2, by omega⟩
  swing := !v.getLsbD 3
  tapTempo := v.getLsbD 4
  outputClock := v.getLsbD 5
  outputMode := if v.getLsbD 6 then .drums else .euclidean
  gateMode := !v.getLsbD 7

/-- `pitch >> 7`, the pitch in whole semitones (R55, R251). -/
def noteOf (p : Half) : Half := BitVec.ofInt 16 (asr (pitchValue p) 7)

end Sys2Proof.Machine
end

