-- ==== Sys2Proof/Machine/Init.lean ====
section
/-! DEFINITION. The unit bodies that CLK_INIT, PG_INIT, OSC_INIT and reset share (spec/41_clock.md R160,
spec/42_pattern.md R190, spec/43_oscillator.md R258, spec/70_reset_and_hazards.md R320). -/

namespace Sys2Proof.Machine

/-- The body of CLK_INIT (R160). -/
def clkInitValue (P : Params) : Clk where
  bpm := P.clkInitBpm
  phase := 0
  phaseIncrement := P.clockIncrement P.clkInitBpm P.clkInitRes
  fallingEdge := 0x40
  locked := false

/-- The body of PG_INIT (R190). -/
def pgInitValue (P : Params) : Pg where
  opt := ⟨P.pgSettingsReset 0, P.pgSettingsReset 1, P.pgSettingsReset 2⟩
  density := ⟨P.pgSettingsReset 3, P.pgSettingsReset 4, P.pgSettingsReset 5⟩
  options := unpack (P.pgSettingsReset 6)
  pulse := 0
  step := 0
  euclideanStep := ⟨0, 0, 0⟩
  partPerturbation := ⟨0, 0, 0⟩
  state := 0

/-- The body of OSC_INIT (R258). -/
def oscInitValue (P : Params) : Osc where
  phase := 0
  phaseIncrement := 0
  auxPhase := 0
  sample := 2048
  rng := P.oscRngReset
  shape := P.oscShapeReset
  gate := false
  pitch := P.oscPitchReset
  note := noteOf P.oscPitchReset
  cvPw := 0
  dirty := true

end Sys2Proof.Machine
end

