-- ==== Sys2Proof/Machine/State.lean ====
section
/-! DEFINITION. The state of the CORE (spec/10_state.md), its reset (spec/70_reset_and_hazards.md R320, R321) and the
two ways a step can stop. The CORE has no program counter and no data memory (R30, R91). -/

namespace Sys2Proof.Machine

/-- Why the machine stops. The spec's own faults are no stops: `raise Fault` is a next state with the fault latch set
(R291), and the CORE then ignores commands (R295). -/
inductive Fault where
  /-- Raised by the host action `removeSample` on an empty FIFO. R88 lets the host remove entries from the head and
  says nothing of a FIFO that has none. Safe: the model stops where the spec gives no effect (assumption 4). -/
  | removeFromEmptyFifo
  deriving DecidableEq, Repr

/-- Why an instruction is refused. -/
inductive Refusal where
  /-- Raised by `exec` for an instruction that has no meaning yet. Safe: the model stops. No arm raises it now. -/
  | notModelled (mnemonic : String)
  deriving DecidableEq, Repr

/-- Every state element of the CORE, and what the host is about to do. -/
structure State where
  /-- `RESP`, u32 (R31). -/
  resp : Word
  /-- `FAULT`, 1 bit (R32). -/
  fault : Bool
  /-- `CAUSE`, u8 (R32). -/
  cause : Byte
  /-- `FAULT_CMD`, u32 (R32). -/
  faultCmd : Word
  /-- The output sample FIFO, head first (R58). -/
  fifo : List Sample
  /-- `RND.state`, u16 (R35). -/
  rnd : Half
  /-- The CLK unit (R36 to R40). -/
  clk : Clk
  /-- The PG unit (R41 to R48). -/
  pg : Pg
  /-- The OSC unit (R49 to R57). -/
  osc : Osc
  /-- The model's own field: the host's actions still to come, the next one first (R92, R305; assumption 3). -/
  host : List HostAction
  deriving DecidableEq, Repr

/-- Every element as R321 lists it, under the parameters `P`; no host action pending. -/
def resetWith (P : Params) : State where
  resp := 0
  fault := false
  cause := 0
  faultCmd := 0
  fifo := []
  rnd := P.rndSeedReset
  clk := clkInitValue P
  pg := pgInitValue P
  osc := oscInitValue P
  host := []

/-- The machine right after reset (R320, R321). -/
def State.reset : State := resetWith Config.params

end Sys2Proof.Machine
end

