-- ==== Sys2Proof/Machine/Ops.lean ====
section
/-! DEFINITION. The named operations every command is written with: writing a unit's registers, `RESP <- v`,
`emit(v)` and `raise Fault(cause)` (spec/00_scope.md R13), reset (spec/70_reset_and_hazards.md R320), and the numbered
registers (spec/10_state.md R34). -/

namespace Sys2Proof.Machine

/-- `RESP <- v` (R13, R31). -/
def respond (v : Word) (s : State) : State := { s with resp := v }

/-- Writes `RND.state` (R35). -/
def setRnd (v : Half) (s : State) : State := { s with rnd := v }

/-- Writes the CLK unit's registers. -/
def setClk (c : Clk) (s : State) : State := { s with clk := c }

/-- Writes the PG unit's registers. -/
def setPg (p : Pg) (s : State) : State := { s with pg := p }

/-- Writes the OSC unit's registers. -/
def setOsc (o : Osc) (s : State) : State := { s with osc := o }

/-- `emit(v)`: appends a sample at the tail of the FIFO (R13, R88). -/
def emit (v : Sample) (s : State) : State := { s with fifo := s.fifo ++ [v] }

/-- Sets the host actions still to come. -/
def setHost (h : List HostAction) (s : State) : State := { s with host := h }

/-- `raise Fault(cause)` by the command word `cmd`: the fault latch is written and nothing else changes (R291). This
is the CORE's whole exception entry; it saves no address and goes nowhere (R290). -/
def raise (c : Cause) (cmd : Word) (s : State) : State :=
  { s with fault := true, cause := causeCode c, faultCmd := cmd }

/-- `Reset` (R320), the only way out of a fault (R296): every state element takes its reset value. The host's own
actions to come are no state of the CORE and stay. -/
def resetCore (P : Params) (s : State) : State := setHost s.host (resetWith P)

/-- `FIFO_FREE = FIFO_DEPTH - count` (R58, R88). -/
def fifoFree (P : Params) (s : State) : Nat := P.fifoDepth - s.fifo.length

/-- A u1 register as READ shows it. -/
def bit (b : Bool) : Word := (BitVec.ofBool b).setWidth 32

/-- The value READ gives for a register number, zero-extended to 32 bits; none for an unassigned one (R34). A signed
register gives its 16-bit pattern. -/
def registerValue (reg : Byte) (s : State) : Option Word :=
  match reg with
  | 0x10#8 => some (s.rnd.setWidth 32)
  | 0x20#8 => some s.clk.phase
  | 0x21#8 => some s.clk.phaseIncrement
  | 0x22#8 => some (s.clk.bpm.setWidth 32)
  | 0x23#8 => some (s.clk.fallingEdge.setWidth 32)
  | 0x24#8 => some (bit s.clk.locked)
  | 0x30#8 => some (s.pg.opt.p0.setWidth 32)
  | 0x31#8 => some (s.pg.opt.p1.setWidth 32)
  | 0x32#8 => some (s.pg.opt.p2.setWidth 32)
  | 0x33#8 => some (s.pg.density.p0.setWidth 32)
  | 0x34#8 => some (s.pg.density.p1.setWidth 32)
  | 0x35#8 => some (s.pg.density.p2.setWidth 32)
  | 0x36#8 => some ((pack s.pg.options).setWidth 32)
  | 0x37#8 => some (s.pg.state.setWidth 32)
  | 0x38#8 => some (s.pg.step.setWidth 32)
  | 0x39#8 => some (s.pg.pulse.setWidth 32)
  | 0x3A#8 => some (s.pg.euclideanStep.p0.setWidth 32)
  | 0x3B#8 => some (s.pg.euclideanStep.p1.setWidth 32)
  | 0x3C#8 => some (s.pg.euclideanStep.p2.setWidth 32)
  | 0x3D#8 => some (s.pg.partPerturbation.p0.setWidth 32)
  | 0x3E#8 => some (s.pg.partPerturbation.p1.setWidth 32)
  | 0x3F#8 => some (s.pg.partPerturbation.p2.setWidth 32)
  | 0x40#8 => some (s.osc.phase.setWidth 32)
  | 0x41#8 => some (s.osc.phaseIncrement.setWidth 32)
  | 0x42#8 => some (s.osc.auxPhase.setWidth 32)
  | 0x43#8 => some (s.osc.sample.setWidth 32)
  | 0x44#8 => some (s.osc.rng.setWidth 32)
  | 0x45#8 => some ((shapeCode s.osc.shape).setWidth 32)
  | 0x46#8 => some (bit s.osc.gate)
  | 0x47#8 => some (s.osc.pitch.setWidth 32)
  | 0x48#8 => some (s.osc.note.setWidth 32)
  | 0x49#8 => some (s.osc.cvPw.setWidth 32)
  | 0x4A#8 => some (bit s.osc.dirty)
  | _ => none

end Sys2Proof.Machine
end

