-- ==== Sys2Proof/Machine/Flags.lean ====
section
/-! DEFINITION. Flags and status bits: the clock's edge predicates (spec/41_clock.md R167, R168), the wrap of the
oscillator's accumulators (spec/43_oscillator.md R260, R263) and the bit layout of the pattern state
(spec/10_state.md R48, spec/42_pattern.md R194, R202, R206). -/

namespace Sys2Proof.Machine

/-- `raising_edge()`: `phase < phase_increment`, unsigned (R167). -/
def risingEdge (c : Clk) : Bool := decide (c.phase < c.phaseIncrement)

/-- `past_falling_edge()`: the phase's top byte is at or above the threshold (R168). -/
def pastFallingEdge (c : Clk) : Bool := decide (c.fallingEdge ≤ c.phase.extractLsb' 24 8)

/-- The oscillator phase plus its increment, as an integer below 2^25 (R260). -/
def phaseSum (o : Osc) : Nat := o.phase.toNat + o.phaseIncrement.toNat

/-- `Advance()`'s new phase (R260). -/
def advancePhase (o : Osc) : Osc := { o with phase := BitVec.ofNat 24 (phaseSum o) }

/-- `Advance()`'s result: the accumulator wrapped (R260). -/
def phaseWraps (o : Osc) : Bool := decide (2 ^ 24 ≤ phaseSum o)

/-- The clock bit inverted into bit 6 and the random bit in bit 7 of the pattern state (R194); bits 5:0 kept. -/
def refreshTopBits (rnd : Half) (st : Byte) : Byte :=
  BitVec.ofBool (rnd.getLsbD 15) ++ BitVec.ofBool (!st.getLsbD 6) ++ st.extractLsb' 0 6

/-- The pattern state with bits 5:3 from `b5`, `b4`, `b3` and the triggers in bits 2:0 (R48); bits 7:6 kept. -/
def writeLowBits (st : Byte) (b5 b4 b3 : Bool) (trig : Triple Bool) : Byte :=
  st.extractLsb' 6 2 ++ BitVec.ofBool b5 ++ BitVec.ofBool b4 ++ BitVec.ofBool b3 ++
    BitVec.ofBool trig.p2 ++ BitVec.ofBool trig.p1 ++ BitVec.ofBool trig.p0

/-- Bit 4 when `output_clock` is set: the parameter `PG_CLKMODE_BIT4` (R202, R206). -/
def clockModeBit4 (P : Params) (st : Byte) : Bool :=
  match P.pgClkmodeBit4 with
  | .zero => false
  | .clock => st.getLsbD 6

/-- The Drums layout (R202): accents, or with `output_clock` any-accent, bit 4 and the reset pulse of step 0. -/
def drumsLayout (P : Params) (outputClock : Bool) (step : BitVec 5) (st : Byte) (trig acc : Triple Bool) : Byte :=
  if outputClock then
    writeLowBits st (decide (step = 0)) (clockModeBit4 P st) (acc.p0 || acc.p1 || acc.p2) trig
  else writeLowBits st acc.p2 acc.p1 acc.p0 trig

/-- The Euclidean layout (R206): resets, or with `output_clock` bit 5 set when all three parts reset. -/
def euclideanLayout (P : Params) (outputClock : Bool) (st : Byte) (trig rst : Triple Bool) : Byte :=
  if outputClock then
    writeLowBits st (rst.p0 && rst.p1 && rst.p2) (clockModeBit4 P st) false trig
  else writeLowBits st rst.p2 rst.p1 rst.p0 trig

end Sys2Proof.Machine
end

