-- ==== Sys2Proof/Machine/Clock.lean ====
section
/-! DEFINITION. The CLK unit's commands (spec/41_clock.md R160 to R169). -/

namespace Sys2Proof.Machine

/-- CLK_UPDATE (R161), BAD_RESOLUTION before BPM_RANGE (R294). The resolution is not stored. -/
def clkUpdate (P : Params) (res : Byte) (bpm : Half) (s : State) : State :=
  if 2 < res.toNat then raise .badResolution (encode (.clkUpdate res bpm)) s
  else if bpm < P.clkBpmMin ∨ P.clkBpmMax < bpm then raise .bpmRange (encode (.clkUpdate res bpm)) s
  else setClk { s.clk with bpm := bpm, phaseIncrement := P.clockIncrement bpm (res.setWidth 2) } s

/-- CLK_TICK's addition, modulo 2^32 (R162). -/
def tickClk (c : Clk) : Clk := { c with phase := c.phase + c.phaseIncrement }

/-- The wrap point's top byte `128 + amount`, for an amount above -128 (R163). -/
def wrapTop (amount : Int) : Nat := (128 + amount).toNat

/-- CLK_WRAP's effect for an amount other than -128 (R163): the source's zero case, or the swing case, which
subtracts the wrap point at most once. -/
def wrapClk (amount : Int) (c : Clk) : Clk :=
  if amount = 0 then { c with phase := c.phase &&& 0x7FFFFFFF#32, fallingEdge := 0x40 }
  else
    let wrapPoint := wrapTop amount <<< 24
    { c with
      phase := if wrapPoint ≤ c.phase.toNat then BitVec.ofNat 32 (c.phase.toNat - wrapPoint) else c.phase
      fallingEdge := BitVec.ofNat 8 (wrapTop amount >>> 1) }

/-- CLK_WRAP (R163): BAD_SWING for -128, where the wrap point would be 0. -/
def clkWrap (amount : Byte) (s : State) : State :=
  if swingAmount amount = -128 then raise .badSwing (encode (.clkWrap amount)) s
  else setClk (wrapClk (swingAmount amount) s.clk) s

/-- CLK_INIT (R160). -/
def execClkInit (s : State) : Host.Outcome State Fault Refusal := .next (setClk (clkInitValue Config.params) s)

def execClkUpdate (res : Byte) (bpm : Half) (s : State) : Host.Outcome State Fault Refusal :=
  .next (clkUpdate Config.params res bpm s)

def execClkTick (s : State) : Host.Outcome State Fault Refusal := .next (setClk (tickClk s.clk) s)

def execClkWrap (amount : Byte) (s : State) : Host.Outcome State Fault Refusal := .next (clkWrap amount s)

/-- CLK_RESET (R164): the phase and nothing else. -/
def execClkReset (s : State) : Host.Outcome State Fault Refusal := .next (setClk { s.clk with phase := 0 } s)

/-- CLK_LOCK (R165). -/
def execClkLock (s : State) : Host.Outcome State Fault Refusal := .next (setClk { s.clk with locked := true } s)

/-- CLK_UNLOCK (R166). -/
def execClkUnlock (s : State) : Host.Outcome State Fault Refusal := .next (setClk { s.clk with locked := false } s)

/-- CLK_RISING (R167). -/
def execClkRising (s : State) : Host.Outcome State Fault Refusal := .next (respond (bit (risingEdge s.clk)) s)

/-- CLK_FALLEN (R168). -/
def execClkFallen (s : State) : Host.Outcome State Fault Refusal := .next (respond (bit (pastFallingEdge s.clk)) s)

/-- CLK_LOCKED (R169). -/
def execClkLocked (s : State) : Host.Outcome State Fault Refusal := .next (respond (bit s.clk.locked) s)

end Sys2Proof.Machine
end

