-- ==== Sys2Proof/Machine/General.lean ====
section
/-! DEFINITION. The general command READ (spec/30_encoding.md R110). -/

namespace Sys2Proof.Machine

/-- READ (R110): `RESP` takes the register's bits, zero-extended; an unassigned number raises BAD_REGISTER. -/
def readRegister (reg : Byte) (s : State) : State :=
  match registerValue reg s with
  | some v => respond v s
  | none => raise .badRegister (encode (.read reg)) s

def execRead (reg : Byte) (s : State) : Host.Outcome State Fault Refusal := .next (readRegister reg s)

end Sys2Proof.Machine
end

