-- ==== Sys2Proof/Machine/Oscillator.lean ====
section
/-! DEFINITION. The OSC unit's commands and its renders (spec/43_oscillator.md R250 to R266). -/

namespace Sys2Proof.Machine

/-- OSC_SET_PITCH's effect (R251): a changed pitch makes the increment stale. -/
def withPitch (p : Half) (o : Osc) : Osc :=
  { o with pitch := p, note := noteOf p, dirty := o.dirty || decide (p ≠ o.pitch) }

/-- OSC_SET_PITCH (R251): PITCH_RANGE outside `OSC_PITCH_MIN .. OSC_PITCH_MAX`, signed. -/
def oscSetPitch (P : Params) (p : Half) (s : State) : State :=
  if pitchValue p < pitchValue P.oscPitchMin ∨ pitchValue P.oscPitchMax < pitchValue p then
    raise .pitchRange (encode (.oscSetPitch p)) s
  else setOsc (withPitch p s.osc) s

/-- OSC_SET_SHAPE (R252): BAD_SHAPE above 5; the increment is not made stale. -/
def oscSetShape (shape : Byte) (s : State) : State :=
  match shapeOfOperand shape with
  | some sh => setOsc { s.osc with shape := sh } s
  | none => raise .badShape (encode (.oscSetShape shape)) s

/-- OSC_SET_GATE's effect for a gate of 0 or 1 (R253): opening a closed gate makes the increment stale. -/
def withGate (g : Bool) (o : Osc) : Osc := { o with gate := g, dirty := o.dirty || (!o.gate && g) }

/-- OSC_SET_GATE (R253): BAD_GATE above 1. -/
def oscSetGate (g : Byte) (s : State) : State :=
  match g.toNat with
  | 0 => setOsc (withGate false s.osc) s
  | 1 => setOsc (withGate true s.osc) s
  | _ => raise .badGate (encode (.oscSetGate g)) s

/-- R257's loop, at most `fuel` times: fold the pitch up by octaves until it reaches `ref`, counting the shifts. -/
def foldUp (ref : Int) : Nat → Int → Nat → Int × Nat
  | 0, q, shifts => (q, shifts)
  | fuel + 1, q, shifts => if q < ref then foldUp ref fuel (q + 1536) (shifts + 1) else (q, shifts)

/-- The octaves that any s16 pitch may have to be folded below any s16 reference: `65535 < 43 * 1536`. -/
def foldFuel : Nat := 43

/-- `OSC_INC_TABLE` at an index (R84); past its 97 entries a free value (R86, assumption 2). -/
def incTableEntry (P : Params) (k : Nat) : Nat :=
  if h : k < 97 then (P.oscIncTable ⟨k, h⟩).toNat else (Config.oscIncBeyond k).toNat

/-- The increment at `k` units above the reference pitch, before the octave shifts (R257). -/
def incAt (P : Params) (k : Nat) : Nat :=
  (lerp (incTableEntry P (k / 16)) (incTableEntry P (k / 16 + 1)) (k % 16) 4).toNat

/-- `ComputePhaseIncrement(pitch, noise)` (R257). -/
def computePhaseIncrement (P : Params) (pitch : Half) (noise : Bool) : Phase24 :=
  let folded := foldUp (pitchValue P.oscRefPitch) foldFuel (pitchValue pitch) 0
  let shifts := if noise then folded.2 - 1 else folded.2
  BitVec.ofNat 24 (incAt P (folded.1 - pitchValue P.oscRefPitch).toNat >>> shifts)

/-- The lazy recompute of a render with the gate open (R255). -/
def recompute (P : Params) (o : Osc) : Osc :=
  if o.dirty then
    { o with phaseIncrement := computePhaseIncrement P o.pitch (isNoise o.shape), dirty := false }
  else o

/-- `WaveInterp(T, z, ph)` (R261). The entries read are at most 256. -/
def waveInterp (bank : Fin 8 → Fin 257 → Sample) (z : Fin 8) (ph : Phase24) : Sample :=
  let i := (ph.extractLsb' 16 8).toNat
  have hi : i < 256 := (ph.extractLsb' 16 8).isLt
  BitVec.ofInt 12 (lerp (bank z ⟨i, by omega⟩).toNat (bank z ⟨i + 1, by omega⟩).toNat (ph.extractLsb' 8 8).toNat 8)

/-- `clamp(OSC.note - 12, 0, 127)` (R262). -/
def zoneNote (note : Half) : Nat := (min (max (note.toInt - 12) 0) 127).toNat

/-- `ZoneSample(T, ph)` (R262): two adjacent zones cross-faded by the low nibble; zone 7 stands alone. -/
def zoneSample (bank : Fin 8 → Fin 257 → Sample) (note : Half) (ph : Phase24) : Sample :=
  let n := zoneNote note
  have hn : n ≤ 127 := by simp only [n, zoneNote]; omega
  let z : Fin 8 := ⟨n / 16, by omega⟩
  let z1 : Fin 8 := ⟨min (n / 16 + 1) 7, by omega⟩
  BitVec.ofInt 12 (lerp (waveInterp bank z ph).toNat (waveInterp bank z1 ph).toNat (n % 16) 4)

/-- One sample of RenderSilence (R256). -/
def silenceSample (o : Osc) : Osc := { o with sample := 2048 }

/-- The auxiliary accumulator plus its increment, an integer below 2^17 (R263). -/
def auxSum (P : Params) (o : Osc) : Nat := o.auxPhase.toNat + (P.auxIncTable o.cvPw).toNat

/-- One sample of RenderSine (R263): re-sampled from the triangle bank when the auxiliary accumulator wraps. -/
def sineSample (P : Params) (o : Osc) : Osc :=
  let advanced := advancePhase o
  { advanced with
    auxPhase := BitVec.ofNat 16 (auxSum P o)
    sample := if 2 ^ 16 ≤ auxSum P o then zoneSample P.waveTri o.note advanced.phase else o.sample }

/-- One sample of RenderBandlimitedTriangle (R264). -/
def triangleSample (bank : Fin 8 → Fin 257 → Sample) (o : Osc) : Osc :=
  let advanced := advancePhase o
  { advanced with sample := zoneSample bank o.note advanced.phase }

/-- The register after the sample's advance: `stepRng` once if the accumulator wrapped (R265, R266). -/
def clockedRng (stepRng : Half → Half) (o : Osc) : Half := if phaseWraps o then stepRng o.rng else o.rng

/-- RenderNoiseNES's level (R265). -/
def nesLevel (rng : Half) : Sample := if rng.getLsbD 0 then 0x300 else 0xCFF

/-- One sample of RenderNoiseNES (R265). -/
def nesNoiseSample (tap : Nat) (o : Osc) : Osc :=
  let rng := clockedRng (nesStep tap) o
  { advancePhase o with rng := rng, sample := nesLevel rng }

/-- RenderNoise's level (R266): the low 12 bits times 3/4, plus 0x200. -/
def noiseLevel (rng : Half) : Sample := BitVec.ofNat 12 ((((rng &&& 0x0FFF#16).toNat * 3) >>> 2) + 0x200)

/-- One sample of RenderNoise (R266). -/
def noiseSample (o : Osc) : Osc :=
  let rng := clockedRng galoisStep o
  { advancePhase o with rng := rng, sample := noiseLevel rng }

/-- The render function of a shape, one sample of it (R250, R255). -/
def shapeSample (P : Params) (shape : Shape) : Osc → Osc :=
  match shape with
  | .sine => sineSample P
  | .triangle => triangleSample P.waveTri
  | .nesTriangle => triangleSample P.waveNes
  | .nesNoiseShort => nesNoiseSample 6
  | .nesNoiseLong => nesNoiseSample 1
  | .noise => noiseSample

/-- A render's loop: compute a sample, emit it, as many times as told (R256, R263 to R266). -/
def renderSamples (next : Osc → Osc) : Nat → State → State
  | 0, s => s
  | n + 1, s =>
    let o := next s.osc
    renderSamples next n (emit o.sample (setOsc o s))

/-- OSC_RENDER (R255). -/
def oscRender (P : Params) (s : State) : State :=
  if fifoFree P s < P.oscBlock then raise .bufferFull (encode .oscRender) s
  else if s.osc.gate then
    renderSamples (shapeSample P s.osc.shape) P.oscBlock (setOsc (recompute P s.osc) s)
  else renderSamples silenceSample P.oscBlock s

/-- OSC_INIT (R258); the FIFO is not touched. -/
def execOscInit (s : State) : Host.Outcome State Fault Refusal := .next (setOsc (oscInitValue Config.params) s)

def execOscSetPitch (p : Half) (s : State) : Host.Outcome State Fault Refusal := .next (oscSetPitch Config.params p s)

def execOscSetShape (shape : Byte) (s : State) : Host.Outcome State Fault Refusal := .next (oscSetShape shape s)

def execOscSetGate (g : Byte) (s : State) : Host.Outcome State Fault Refusal := .next (oscSetGate g s)

/-- OSC_SET_PW (R254). -/
def execOscSetPw (w : Byte) (s : State) : Host.Outcome State Fault Refusal := .next (setOsc { s.osc with cvPw := w } s)

def execOscRender (s : State) : Host.Outcome State Fault Refusal := .next (oscRender Config.params s)

end Sys2Proof.Machine
end

