-- ==== Sys2Proof/Machine/Pattern.lean ====
section
/-! DEFINITION. The PG unit's commands and PG_TICK's evaluation (spec/42_pattern.md R190 to R209). -/

namespace Sys2Proof.Machine

/-- `ReadDrumMap(step, part, x, y)` (R200): the four maps around `(x, y)` blended in x, then in y. The map number is
at most 24 and the entry at most 95. -/
def readDrumMap (P : Params) (step : BitVec 5) (part : Fin 3) (x y : Byte) : Byte :=
  let level (di dj : Fin 2) : Byte :=
    P.drumMap ⟨5 * (x.toNat / 64 + di.val) + (y.toNat / 64 + dj.val), by have := x.isLt; have := y.isLt; omega⟩
      ⟨32 * part.val + step.toNat, by have := step.isLt; omega⟩
  let xw : Byte := x <<< 2
  let yw : Byte := y <<< 2
  u8Mix (u8Mix (level 0 0) (level 1 0) xw) (u8Mix (level 0 1) (level 1 1) xw) yw

/-- A part's level with its perturbation, saturated at 255 (R201). -/
def drumLevel (P : Params) (pg : Pg) (part : Fin 3) : Nat :=
  min 255 ((readDrumMap P pg.step part pg.opt.p0 pg.opt.p1).toNat + (pg.partPerturbation.get part).toNat)

/-- `threshold = ~density[i]` (R201). -/
def drumThreshold (pg : Pg) (part : Fin 3) : Nat := 255 - (pg.density.get part).toNat

/-- A part's trigger (R201). -/
def drumTrigger (P : Params) (pg : Pg) (part : Fin 3) : Bool := decide (drumThreshold pg part < drumLevel P pg part)

/-- A part's accent: a trigger with a level above 192 (R201). -/
def drumAccent (P : Params) (pg : Pg) (part : Fin 3) : Bool :=
  drumTrigger P pg part && decide (192 < drumLevel P pg part)

/-- The perturbation every part draws at step 0 (R199). -/
def perturbation (rnd : Half) (randomness : Byte) : Byte :=
  BitVec.ofNat 8 (((topByte rnd).toNat * (randomness.toNat >>> 2)) >>> 8)

/-- The perturbation draw (R199), at step 0 only (R198). -/
def drawPerturbations (rnd : Half) (pg : Pg) : Pg :=
  if pg.step = 0 then
    { pg with partPerturbation := Triple.ofFn fun _ => perturbation rnd pg.opt.p2 }
  else pg

/-- The Drums output from the perturbations drawn (R201, R202). -/
def writeDrums (P : Params) (pg : Pg) : Pg :=
  { pg with
    state := drumsLayout P pg.options.outputClock pg.step pg.state
      (Triple.ofFn (drumTrigger P pg)) (Triple.ofFn (drumAccent P pg)) }

/-- `EvaluateDrums` (R198). -/
def evaluateDrums (P : Params) (rnd : Half) (pg : Pg) : Pg := writeDrums P (drawPerturbations rnd pg)

/-- A part's Euclidean length, 1 to 32 (R204). -/
def euclideanLength (pg : Pg) (part : Fin 3) : Nat := (pg.opt.get part).toNat / 8 + 1

/-- A part's pattern word, entry `32*(L-1) + d` of the table (R204, R82). -/
def euclideanWord (P : Params) (pg : Pg) (part : Fin 3) : Word :=
  P.euclidLut ⟨32 * ((pg.opt.get part).toNat / 8) + (pg.density.get part).toNat / 8, by
    have := (pg.opt.get part).isLt; have := (pg.density.get part).isLt; omega⟩

/-- A part's Euclidean step reduced modulo its length (R204). -/
def euclideanPosition (pg : Pg) (part : Fin 3) : Nat := (pg.euclideanStep.get part).toNat % euclideanLength pg part

/-- `EvaluateEuclidean` (R204, R206): the reduced steps are written back. -/
def evaluateEuclidean (P : Params) (pg : Pg) : Pg :=
  { pg with
    euclideanStep := Triple.ofFn fun i => BitVec.ofNat 8 (euclideanPosition pg i)
    state := euclideanLayout P pg.options.outputClock pg.state
      (Triple.ofFn fun i => (euclideanWord P pg i).getLsbD (euclideanPosition pg i))
      (Triple.ofFn fun i => decide (euclideanPosition pg i = 0)) }

/-- `EvaluateBody` (R196): at pulse 0 only, and in Euclidean mode on even steps only. -/
def evaluateBody (P : Params) (rnd : Half) (pg : Pg) : Pg :=
  if pg.pulse ≠ 0 then pg
  else
    match pg.options.outputMode with
    | .drums => evaluateDrums P rnd pg
    | .euclidean => if pg.step.getLsbD 0 then pg else evaluateEuclidean P pg

/-- `RefreshTopBits` (R194). -/
def refreshPg (rnd : Half) (pg : Pg) : Pg := { pg with state := refreshTopBits rnd pg.state }

/-- One step of the pattern (R192): leaving an even step moves every Euclidean step on. -/
def advanceStep (pg : Pg) : Pg :=
  { pg with
    euclideanStep := if pg.step.getLsbD 0 then pg.euclideanStep else Triple.ofFn fun i => pg.euclideanStep.get i + 1
    step := pg.step + 1 }

/-- R192's loop: three pulses make a step, and what is left is the new pulse. -/
def advancePulses : Nat → Pg → Pg
  | total + 3, pg => advancePulses total (advanceStep pg)
  | total, pg => { pg with pulse := BitVec.ofNat 8 total }

/-- PG_TICK (R192): the LFSR advances (R193), the top bits are refreshed (R194), the body is evaluated (R196), and
only then the pulses are counted. -/
def pgTick (P : Params) (n : Byte) (s : State) : State :=
  let rnd := galoisStep s.rnd
  let evaluated := evaluateBody P rnd (refreshPg rnd s.pg)
  setPg (advancePulses (s.pg.pulse.toNat + n.toNat) evaluated) (setRnd rnd s)

/-- PG_RESET's effect (R191): step, pulse and Euclidean steps, and nothing else. -/
def resetPg (pg : Pg) : Pg := { pg with step := 0, pulse := 0, euclideanStep := ⟨0, 0, 0⟩ }

/-- PG_SET (R207): index 0 to 2 the option cells, 3 to 5 the densities, 6 the packed options; BAD_INDEX above. -/
def pgSet (idx v : Byte) (s : State) : State :=
  match idx.toNat with
  | 0 => setPg { s.pg with opt := s.pg.opt.set 0 v } s
  | 1 => setPg { s.pg with opt := s.pg.opt.set 1 v } s
  | 2 => setPg { s.pg with opt := s.pg.opt.set 2 v } s
  | 3 => setPg { s.pg with density := s.pg.density.set 0 v } s
  | 4 => setPg { s.pg with density := s.pg.density.set 1 v } s
  | 5 => setPg { s.pg with density := s.pg.density.set 2 v } s
  | 6 => setPg { s.pg with options := unpack v } s
  | _ => raise .badIndex (encode (.pgSet idx v)) s

/-- PG_INIT (R190). -/
def execPgInit (s : State) : Host.Outcome State Fault Refusal := .next (setPg (pgInitValue Config.params) s)

def execPgReset (s : State) : Host.Outcome State Fault Refusal := .next (setPg (resetPg s.pg) s)

def execPgTick (n : Byte) (s : State) : Host.Outcome State Fault Refusal := .next (pgTick Config.params n s)

def execPgSet (idx v : Byte) (s : State) : Host.Outcome State Fault Refusal := .next (pgSet idx v s)

/-- PG_STATE (R208). -/
def execPgState (s : State) : Host.Outcome State Fault Refusal := .next (respond (s.pg.state.setWidth 32) s)

/-- PG_STEP (R209). -/
def execPgStep (s : State) : Host.Outcome State Fault Refusal := .next (respond (s.pg.step.setWidth 32) s)

end Sys2Proof.Machine
end

