-- ==== Sys2Proof/Machine/Rnd.lean ====
section
/-! DEFINITION. The RND unit's commands (spec/40_lfsr.md R140 to R143). -/

namespace Sys2Proof.Machine

/-- RND_SEED (R142): SEED_ZERO for 0, else the state is the seed. -/
def rndSeed (v : Half) (s : State) : State :=
  if v = 0 then raise .seedZero (encode (.rndSeed v)) s else setRnd v s

/-- RND_UPDATE (R140): one Galois step. -/
def execRndUpdate (s : State) : Host.Outcome State Fault Refusal := .next (setRnd (galoisStep s.rnd) s)

def execRndSeed (v : Half) (s : State) : Host.Outcome State Fault Refusal := .next (rndSeed v s)

/-- RND_STATE (R141): the state, zero-extended. -/
def execRndState (s : State) : Host.Outcome State Fault Refusal := .next (respond (s.rnd.setWidth 32) s)

/-- RND_BYTE (R143): the top byte; the state does not advance. -/
def execRndByte (s : State) : Host.Outcome State Fault Refusal := .next (respond ((topByte s.rnd).setWidth 32) s)

end Sys2Proof.Machine
end

