-- ==== Sys2Proof/Machine/Dispatch.lean ====
section
/-! DEFINITION. `exec`: one arm per command of spec/opcode_table.json, each a call of that command's meaning. -/

namespace Sys2Proof.Machine

def exec (i : Instr) (s : State) : Host.Outcome State Fault Refusal :=
  match i with
  | .read reg => Sys2Proof.Machine.execRead reg s
  | .rndUpdate => Sys2Proof.Machine.execRndUpdate s
  | .rndSeed v => Sys2Proof.Machine.execRndSeed v s
  | .rndState => Sys2Proof.Machine.execRndState s
  | .rndByte => Sys2Proof.Machine.execRndByte s
  | .clkInit => Sys2Proof.Machine.execClkInit s
  | .clkUpdate res bpm => Sys2Proof.Machine.execClkUpdate res bpm s
  | .clkTick => Sys2Proof.Machine.execClkTick s
  | .clkWrap amount => Sys2Proof.Machine.execClkWrap amount s
  | .clkReset => Sys2Proof.Machine.execClkReset s
  | .clkLock => Sys2Proof.Machine.execClkLock s
  | .clkUnlock => Sys2Proof.Machine.execClkUnlock s
  | .clkRising => Sys2Proof.Machine.execClkRising s
  | .clkFallen => Sys2Proof.Machine.execClkFallen s
  | .clkLocked => Sys2Proof.Machine.execClkLocked s
  | .pgInit => Sys2Proof.Machine.execPgInit s
  | .pgReset => Sys2Proof.Machine.execPgReset s
  | .pgTick n => Sys2Proof.Machine.execPgTick n s
  | .pgSet idx v => Sys2Proof.Machine.execPgSet idx v s
  | .pgState => Sys2Proof.Machine.execPgState s
  | .pgStep => Sys2Proof.Machine.execPgStep s
  | .oscInit => Sys2Proof.Machine.execOscInit s
  | .oscSetPitch p => Sys2Proof.Machine.execOscSetPitch p s
  | .oscSetShape shape => Sys2Proof.Machine.execOscSetShape shape s
  | .oscSetGate g => Sys2Proof.Machine.execOscSetGate g s
  | .oscSetPw w => Sys2Proof.Machine.execOscSetPw w s
  | .oscRender => Sys2Proof.Machine.execOscRender s

end Sys2Proof.Machine
end

