-- ==== Sys2Proof/Machine/Port.lean ====
section
/-! DEFINITION. The ports of the CORE (spec/60_exceptions.md R305): performing a presented command word
(spec/30_encoding.md R100, R295), the values the host reads, and the host's actions at a command boundary (R92). -/

namespace Sys2Proof.Machine

/-- A command word at the command port (R100): ignored, undecoded, while the fault latch is set (R295); else decoded,
checked and performed, in the order of R294. -/
def performWord (w : Word) (s : State) : Host.Outcome State Fault Refusal :=
  if s.fault then .next s
  else
    match decode w with
    | .error .illegalOpcode => .next (raise .illegalOpcode w s)
    | .error .reservedField => .next (raise .reservedField w s)
    | .ok i => exec i s

/-- The status port's four fields (R305). -/
structure StatusFields where
  fault : Bool
  cause : Byte
  faultCmd : Word
  fifoFree : Nat
  deriving DecidableEq, Repr

/-- What a port shows. -/
inductive PortValue where
  | response (v : Word)
  | status (v : StatusFields)
  | pattern (v : Byte)
  | sampleHead (v : Option Sample)
  deriving DecidableEq, Repr

/-- The value at a CORE-to-host port (R31, R32, R33, R88, R305). An empty FIFO has no head. -/
def portValue (P : Params) (p : Port) (s : State) : PortValue :=
  match p with
  | .response => .response s.resp
  | .status => .status ⟨s.fault, s.cause, s.faultCmd, fifoFree P s⟩
  | .pattern => .pattern s.pg.state
  | .sampleHead => .sampleHead s.fifo.head?

/-- The host removes the oldest sample (R88). The spec gives no effect on an empty FIFO: a stop (assumption 4). -/
def removeSample (s : State) : Host.Outcome State Fault Refusal :=
  match s.fifo with
  | [] => .fault .removeFromEmptyFifo
  | _ :: rest => .next { s with fifo := rest }

/-- One host action, with those still to come already in `s.host` (R92, R305). Reading a port has no side effect. -/
def takeAction (a : HostAction) (s : State) : Host.Outcome State Fault Refusal :=
  match a with
  | .command w => performWord w s
  | .readPort _ => .next s
  | .removeSample => removeSample s
  | .reset => .next (resetCore Config.params s)

/-- The next host action, if there is one; a CORE with none is idle and holds its state (R304). -/
def hostStep (s : State) : Host.Outcome State Fault Refusal :=
  match s.host with
  | [] => .next s
  | a :: rest => takeAction a (setHost rest s)

/-- The host presents a word before anything else it was about to do. -/
def presentWord (w : Word) (s : State) : State := setHost (.command w :: s.host) s

end Sys2Proof.Machine
end

