-- ==== Sys2Proof/Machine/Step.lean ====
section
/-! DEFINITION. One step of the machine: the host's next action at the CORE's ports (spec/20_memory.md R92). -/

namespace Sys2Proof.Machine

/-- One step (R92, R100, R304). -/
def step (s : State) : Host.Outcome State Fault Refusal := hostStep s

/-- The opcode-table word stands next at the command port, where `step` takes its next command from. -/
def State.withFetchWord (s : State) (nbits w : Nat) : State := presentWord (tableWord nbits w) s

end Sys2Proof.Machine
end

