-- ==== Sys2Proof/Machine/Assembler.lean ====
section
/-! DEFINITION. The assembler syntax (spec/30_encoding.md R109) and the pseudo-instructions (R111): from one line of
text to the commands it stands for. The assembler is the host's tool; the CORE sees the words only. -/

namespace Sys2Proof.Machine

/-- An operand in its field's range, as the field's bits (R106); out of range is an assembly error (R109). -/
def fieldOf (width : Nat) (kind : OperandKind) (v : Int) : Option (BitVec width) :=
  if (Operand.mk kind v).inRange then some (BitVec.ofInt width v) else none

def u8 (v : Int) : Option Byte := fieldOf 8 .u8 v
def s8 (v : Int) : Option Byte := fieldOf 8 .s8 v
def u16 (v : Int) : Option Half := fieldOf 16 .u16 v
def s16 (v : Int) : Option Half := fieldOf 16 .s16 v

/-- A flag operand of PG_SET_OPTIONS: 0 or 1 (R111). -/
def flagOperand (v : Int) : Option Bool := if v = 0 then some false else if v = 1 then some true else none

/-- The packed byte of `PG_SET_OPTIONS res, swing, tap, oclk, drums, gate` (R111, R210). -/
def optionsOperand (res swing tap oclk drums gate : Int) : Option Byte := do
  let r ← u8 res
  let sw ← flagOperand swing
  let tp ← flagOperand tap
  let oc ← flagOperand oclk
  let dr ← flagOperand drums
  let gt ← flagOperand gate
  if h : r.toNat < 3 then
    some (pack ⟨⟨r.toNat, h⟩, sw, tp, oc, if dr then .drums else .euclidean, gt⟩)
  else none

/-- `PG_SET idx, v` as the pseudo-instructions expand to it (R111). -/
def setLine (idx : Byte) (v : Int) : Option (List Instr) := (u8 v).map fun b => [.pgSet idx b]

/-- The commands a mnemonic with these operands stands for (R104, R109, R111). -/
def assemble (mnemonic : String) (operands : List Int) : Option (List Instr) :=
  match mnemonic, operands with
  | "READ", [r] => (u8 r).map fun b => [.read b]
  | "RND_UPDATE", [] => some [.rndUpdate]
  | "RND_SEED", [v] => (u16 v).map fun h => [.rndSeed h]
  | "RND_STATE", [] => some [.rndState]
  | "RND_BYTE", [] => some [.rndByte]
  | "CLK_INIT", [] => some [.clkInit]
  | "CLK_UPDATE", [r, b] => (u8 r).bind fun res => (u16 b).map fun bpm => [.clkUpdate res bpm]
  | "CLK_TICK", [] => some [.clkTick]
  | "CLK_WRAP", [a] => (s8 a).map fun b => [.clkWrap b]
  | "CLK_RESET", [] => some [.clkReset]
  | "CLK_LOCK", [] => some [.clkLock]
  | "CLK_UNLOCK", [] => some [.clkUnlock]
  | "CLK_RISING", [] => some [.clkRising]
  | "CLK_FALLEN", [] => some [.clkFallen]
  | "CLK_LOCKED", [] => some [.clkLocked]
  | "PG_INIT", [] => some [.pgInit]
  | "PG_RESET", [] => some [.pgReset]
  | "PG_TICK", [n] => (u8 n).map fun b => [.pgTick b]
  | "PG_SET", [i, v] => (u8 i).bind fun idx => setLine idx v
  | "PG_STATE", [] => some [.pgState]
  | "PG_STEP", [] => some [.pgStep]
  | "OSC_INIT", [] => some [.oscInit]
  | "OSC_SET_PITCH", [p] => (s16 p).map fun h => [.oscSetPitch h]
  | "OSC_SET_SHAPE", [x] => (u8 x).map fun b => [.oscSetShape b]
  | "OSC_SET_GATE", [g] => (u8 g).map fun b => [.oscSetGate b]
  | "OSC_SET_PW", [w] => (u8 w).map fun b => [.oscSetPw b]
  | "OSC_RENDER", [] => some [.oscRender]
  | "PG_SET_X", [v] => setLine 0 v
  | "PG_SET_LEN0", [v] => setLine 0 v
  | "PG_SET_Y", [v] => setLine 1 v
  | "PG_SET_LEN1", [v] => setLine 1 v
  | "PG_SET_RANDOMNESS", [v] => setLine 2 v
  | "PG_SET_LEN2", [v] => setLine 2 v
  | "PG_SET_DENSITY", [i, v] => if 0 ≤ i ∧ i ≤ 2 then setLine (BitVec.ofInt 8 (3 + i)) v else none
  | "PG_SET_OPTIONS", [r, sw, t, o, d, g] => (optionsOperand r sw t o d g).map fun b => [.pgSet 6 b]
  | "CLK_STEP", [a] => (s8 a).map fun b => [.clkTick, .clkWrap b]
  | "TICK_AND_TEST", [a] => (s8 a).map fun b => [.clkTick, .clkWrap b, .clkRising]
  | _, _ => none

/-- A command's mnemonic (R104). -/
def mnemonicOf : Instr → String
  | .read _ => "READ"
  | .rndUpdate => "RND_UPDATE"
  | .rndSeed _ => "RND_SEED"
  | .rndState => "RND_STATE"
  | .rndByte => "RND_BYTE"
  | .clkInit => "CLK_INIT"
  | .clkUpdate _ _ => "CLK_UPDATE"
  | .clkTick => "CLK_TICK"
  | .clkWrap _ => "CLK_WRAP"
  | .clkReset => "CLK_RESET"
  | .clkLock => "CLK_LOCK"
  | .clkUnlock => "CLK_UNLOCK"
  | .clkRising => "CLK_RISING"
  | .clkFallen => "CLK_FALLEN"
  | .clkLocked => "CLK_LOCKED"
  | .pgInit => "PG_INIT"
  | .pgReset => "PG_RESET"
  | .pgTick _ => "PG_TICK"
  | .pgSet _ _ => "PG_SET"
  | .pgState => "PG_STATE"
  | .pgStep => "PG_STEP"
  | .oscInit => "OSC_INIT"
  | .oscSetPitch _ => "OSC_SET_PITCH"
  | .oscSetShape _ => "OSC_SET_SHAPE"
  | .oscSetGate _ => "OSC_SET_GATE"
  | .oscSetPw _ => "OSC_SET_PW"
  | .oscRender => "OSC_RENDER"

/-- The line without its comment (R109). -/
def dropComment (line : List Char) : List Char := line.takeWhile (· ≠ ';')

/-- The text without the spaces around it. -/
def trimSpaces (cs : List Char) : List Char :=
  ((cs.dropWhile Char.isWhitespace).reverse.dropWhile Char.isWhitespace).reverse

/-- The pieces between commas. -/
def splitCommas : List Char → List (List Char)
  | [] => [[]]
  | c :: cs =>
    match splitCommas cs with
    | [] => [[c]]
    | piece :: rest => if c = ',' then [] :: piece :: rest else (c :: piece) :: rest

/-- A digit's value in a base up to 16; letters of either case (DESIGN CHOICE, assumption 11). -/
def digitValue (base : Nat) (c : Char) : Option Nat :=
  let n := c.toNat
  let v := if 48 ≤ n ∧ n ≤ 57 then n - 48 else if 65 ≤ n ∧ n ≤ 70 then n - 55 else if 97 ≤ n ∧ n ≤ 102 then n - 87 else base
  if v < base then some v else none

/-- A nonempty string of digits. -/
def numeral (base : Nat) (cs : List Char) : Option Int :=
  if cs.isEmpty then none
  else (cs.foldl (fun acc c => acc.bind fun n => (digitValue base c).map (base * n + ·)) (some 0)).map Int.ofNat

/-- An unsigned integer, decimal or `0x` hexadecimal (R109). -/
def unsignedInteger : List Char → Option Int
  | '0' :: 'x' :: cs => numeral 16 cs
  | cs => numeral 10 cs

/-- An operand's integer, with its sign (R109). DESIGN CHOICE (assumption 11): a minus sign is read before any number of
any operand and the field's range judges the value, so `-0` is 0 and an unsigned field accepts it; R109 does not say. -/
def integer : List Char → Option Int
  | '-' :: cs => (unsignedInteger cs).map Neg.neg
  | cs => unsignedInteger cs

/-- The operands after the mnemonic: none, or integers with commas between them. -/
def operandList (cs : List Char) : Option (List Int) :=
  if (trimSpaces cs).isEmpty then some []
  else (splitCommas cs).mapM fun piece => integer (trimSpaces piece)

/-- One line of assembler text (R109): no commands for a blank or comment line, none at all for an error. -/
def assembleLine (line : List Char) : Option (List Instr) :=
  let text := trimSpaces (dropComment line)
  if text.isEmpty then some []
  else
    let mnemonic := text.takeWhile fun c => !c.isWhitespace
    (operandList (text.drop mnemonic.length)).bind (assemble (String.ofList mnemonic))

end Sys2Proof.Machine
end

