-- ==== Sys2Proof/Safety.lean ====
section
/-! DEFINITION. What a safe run is, in the terms the claims use: the invariant every reachable state meets, and the
contract a command must keep not to fault (spec/60_exceptions.md R293, R294). -/

namespace Sys2Proof.Machine

/-- The CLK registers of every reachable state: a BPM in range (R161), an increment in `1 .. 2^31 - 1` (R161) and a
falling edge in 0..127 (R163). -/
structure Clk.Inv (P : Params) (c : Clk) : Prop where
  bpm_min : P.clkBpmMin ≤ c.bpm
  bpm_max : c.bpm ≤ P.clkBpmMax
  increment_pos : 1 ≤ c.phaseIncrement.toNat
  increment_lt : c.phaseIncrement.toNat < 2 ^ 31
  fallingEdge_le : c.fallingEdge.toNat ≤ 127

/-- The PG registers of every reachable state: a pulse of 0, 1 or 2 (R44) and three equal perturbations of at most 62
(R47, R199). -/
structure Pg.Inv (pg : Pg) : Prop where
  pulse_le : pg.pulse.toNat ≤ 2
  perturbation_le : pg.partPerturbation.p0.toNat ≤ 62
  perturbation_eq1 : pg.partPerturbation.p1 = pg.partPerturbation.p0
  perturbation_eq2 : pg.partPerturbation.p2 = pg.partPerturbation.p0

/-- The OSC registers of every reachable state: a nonzero noise register (R52), a pitch in range with the note that
belongs to it (R55), and, unless the increment is stale, the increment of that pitch for one of the two classes of
shape (R57, R331). -/
structure Osc.Inv (P : Params) (o : Osc) : Prop where
  rng_ne : o.rng ≠ 0
  pitch_min : P.oscPitchMin.toInt ≤ o.pitch.toInt
  pitch_max : o.pitch.toInt ≤ P.oscPitchMax.toInt
  note_eq : o.note.toInt = o.pitch.toInt / 128
  increment_fresh : o.dirty = false → ∃ noise, o.phaseIncrement = computePhaseIncrement P o.pitch noise

/-- The causes a command can raise once decoded (R293). -/
def commandCauses : Instr → List Cause
  | .read _ => [.badRegister]
  | .rndSeed _ => [.seedZero]
  | .clkUpdate _ _ => [.badResolution, .bpmRange]
  | .clkWrap _ => [.badSwing]
  | .pgSet _ _ => [.badIndex]
  | .oscSetShape _ => [.badShape]
  | .oscSetGate _ => [.badGate]
  | .oscSetPitch _ => [.pitchRange]
  | .oscRender => [.bufferFull]
  | .rndUpdate | .rndState | .rndByte => []
  | .clkInit | .clkTick | .clkReset | .clkLock | .clkUnlock | .clkRising | .clkFallen | .clkLocked => []
  | .pgInit | .pgReset | .pgTick _ | .pgState | .pgStep => []
  | .oscInit | .oscSetPw _ => []

/-- The causes a word can raise (R293): its decoding's, or its command's. -/
def wordCauses (w : Word) : List Cause :=
  match decode w with
  | .error .illegalOpcode => [.illegalOpcode]
  | .error .reservedField => [.reservedField]
  | .ok i => commandCauses i

/-- The whole state of every reachable state. -/
structure State.Inv (P : Params) (s : State) : Prop where
  rnd_ne : s.rnd ≠ 0
  clk : s.clk.Inv P
  pg : s.pg.Inv
  osc : s.osc.Inv P
  fifo_le : s.fifo.length ≤ P.fifoDepth
  latch_clear : s.fault = false → s.cause = 0 ∧ s.faultCmd = 0
  latch_set : s.fault = true → ∃ c ∈ wordCauses s.faultCmd, s.cause = causeCode c

/-- The first contract a command breaks in a state, if it breaks one, in R294's order: the register numbers of R34,
and the operand and buffer checks of R110, R142, R161, R163, R207, R251, R252, R253 and R255. -/
def violation (P : Params) (s : State) : Instr → Option Cause
  | .read reg =>
    if reg = 0x10 ∨ (0x20 ≤ reg ∧ reg ≤ 0x24) ∨ (0x30 ≤ reg ∧ reg ≤ 0x4A) then none else some .badRegister
  | .rndSeed v => if v = 0 then some .seedZero else none
  | .clkUpdate res bpm =>
    if 2 < res.toNat then some .badResolution
    else if bpm < P.clkBpmMin ∨ P.clkBpmMax < bpm then some .bpmRange
    else none
  | .clkWrap amount => if amount = 0x80 then some .badSwing else none
  | .pgSet idx _ => if 6 < idx.toNat then some .badIndex else none
  | .oscSetShape shape => if 5 < shape.toNat then some .badShape else none
  | .oscSetGate g => if 1 < g.toNat then some .badGate else none
  | .oscSetPitch p =>
    if p.toInt < P.oscPitchMin.toInt ∨ P.oscPitchMax.toInt < p.toInt then some .pitchRange else none
  | .oscRender => if P.fifoDepth - s.fifo.length < P.oscBlock then some .bufferFull else none
  | .rndUpdate | .rndState | .rndByte => none
  | .clkInit | .clkTick | .clkReset | .clkLock | .clkUnlock | .clkRising | .clkFallen | .clkLocked => none
  | .pgInit | .pgReset | .pgTick _ | .pgState | .pgStep => none
  | .oscInit | .oscSetPw _ => none

end Sys2Proof.Machine
end

