-- ==== Sys2Proof/Certificates/Slice0/Rules.lean ====
section
/-! DEFINITION. The spec's formulas as the statements use them: plain integer arithmetic and closed forms, written
from the rules and not from the model's definitions. -/

namespace Sys2Proof.Rules

open Sys2Proof.Machine

/-! ## Faults and commands -/

/-- The state after `raise Fault(code)` by the word `cmd` (R291): the latch, and nothing else. -/
def latched (code : Byte) (cmd : Word) (s : State) : State :=
  { s with fault := true, cause := code, faultCmd := cmd }

/-- The command that the opcode `opc` encodes: with its reserved bits clear, the word decodes to the command made from
`B` and `H` (R104, R106); with one of them set, it faults RESERVED_FIELD and does nothing else (R103). -/
def EncodedAs (opc : Byte) (reserved : Word) (build : Byte → Half → Instr) : Prop :=
  ∀ w : Word, w.extractLsb' 24 8 = opc →
    (w &&& reserved = 0 → decode w = .ok (build (w.extractLsb' 16 8) (w.extractLsb' 0 16))) ∧
    (w &&& reserved ≠ 0 → ∀ s : State, s.fault = false → performWord w s = .next (latched 2 w s))

/-- `RESP` takes the value and nothing else changes (R31). -/
def Answers (i : Instr) (s : State) (v : Nat) : Prop := exec i s = .next { s with resp := BitVec.ofNat 32 v }

/-- The unit a command belongs to, `OPC[31:28]` of its word (R101). -/
def unitOf (i : Instr) : Nat := (encode i).toNat / 2 ^ 28

/-- The rows of the opcode table that fix bits: `(match, mask)` (R102, R104). -/
def opcodeRows : List (Word × Word) :=
  [(0x01000000, 0xFF00FFFF), (0x10000000, 0xFFFFFFFF), (0x11000000, 0xFFFF0000), (0x12000000, 0xFFFFFFFF),
   (0x13000000, 0xFFFFFFFF), (0x20000000, 0xFFFFFFFF), (0x21000000, 0xFF000000), (0x22000000, 0xFFFFFFFF),
   (0x23000000, 0xFF00FFFF), (0x24000000, 0xFFFFFFFF), (0x25000000, 0xFFFFFFFF), (0x26000000, 0xFFFFFFFF),
   (0x27000000, 0xFFFFFFFF), (0x28000000, 0xFFFFFFFF), (0x29000000, 0xFFFFFFFF), (0x30000000, 0xFFFFFFFF),
   (0x31000000, 0xFFFFFFFF), (0x32000000, 0xFF00FFFF), (0x33000000, 0xFF00FF00), (0x34000000, 0xFFFFFFFF),
   (0x35000000, 0xFFFFFFFF), (0x40000000, 0xFFFFFFFF), (0x41000000, 0xFFFF0000), (0x42000000, 0xFF00FFFF),
   (0x43000000, 0xFF00FFFF), (0x44000000, 0xFF00FFFF), (0x45000000, 0xFFFFFFFF)]

/-- The value of a register of R34's table, and none for a number the table does not hold. -/
def registerTable (s : State) : List (Nat × Nat) :=
  [(0x10, s.rnd.toNat), (0x20, s.clk.phase.toNat), (0x21, s.clk.phaseIncrement.toNat), (0x22, s.clk.bpm.toNat),
   (0x23, s.clk.fallingEdge.toNat), (0x24, s.clk.locked.toNat),
   (0x30, s.pg.opt.p0.toNat), (0x31, s.pg.opt.p1.toNat), (0x32, s.pg.opt.p2.toNat),
   (0x33, s.pg.density.p0.toNat), (0x34, s.pg.density.p1.toNat), (0x35, s.pg.density.p2.toNat),
   (0x36, (pack s.pg.options).toNat), (0x37, s.pg.state.toNat), (0x38, s.pg.step.toNat), (0x39, s.pg.pulse.toNat),
   (0x3A, s.pg.euclideanStep.p0.toNat), (0x3B, s.pg.euclideanStep.p1.toNat), (0x3C, s.pg.euclideanStep.p2.toNat),
   (0x3D, s.pg.partPerturbation.p0.toNat), (0x3E, s.pg.partPerturbation.p1.toNat),
   (0x3F, s.pg.partPerturbation.p2.toNat),
   (0x40, s.osc.phase.toNat), (0x41, s.osc.phaseIncrement.toNat), (0x42, s.osc.auxPhase.toNat),
   (0x43, s.osc.sample.toNat), (0x44, s.osc.rng.toNat), (0x45, (shapeCode s.osc.shape).toNat),
   (0x46, s.osc.gate.toNat), (0x47, s.osc.pitch.toNat), (0x48, s.osc.note.toNat), (0x49, s.osc.cvPw.toNat),
   (0x4A, s.osc.dirty.toNat)]

/-- The commands that write `RESP` (R31). -/
def isQuery : Instr → Bool
  | .read _ | .rndState | .rndByte | .clkRising | .clkFallen | .clkLocked | .pgState | .pgStep => true
  | _ => false

/-! ## Runs: the host presents words and the CORE steps -/

/-- The host's actions that present these commands in order. -/
def presents (is : List Instr) : List HostAction := is.map fun i => .command (encode i)

/-- The state after the host has presented these commands to `s`; `s` itself if the CORE stopped, which it never does
on commands. -/
def after (is : List Instr) (s : State) : State :=
  match Host.Core.run Sys2Proof.core is.length { s with host := presents is ++ s.host } with
  | .next t => t
  | _ => s

/-- `k` times the sequence CLK_TICK, CLK_WRAP `amount`, CLK_RISING (R170). -/
def tickSequences (amount : Byte) (k : Nat) : List Instr :=
  (List.replicate k [Instr.clkTick, .clkWrap amount, .clkRising]).flatten

/-- The wrap point of a swing amount (R163). -/
def wrapPoint (amount : Byte) : Nat := (128 + amount.toInt).toNat * 2 ^ 24

/-- The conditions of R170 on the state and the amount: the phase and the increment lie below the wrap point. R170's
own argument uses that no tick wraps at 2^32; with an amount of 0 or below that follows from the other conditions, and
with a positive amount it does not, so it is a condition here (assumption 13). -/
structure TickLawApplies (amount : Byte) (s : State) : Prop where
  running : s.fault = false
  amount_ne : amount ≠ 0x80
  increment_pos : 0 < s.clk.phaseIncrement.toNat
  increment_lt : s.clk.phaseIncrement.toNat < wrapPoint amount
  phase_lt : s.clk.phase.toNat < wrapPoint amount
  sum_fits : 0 < amount.toInt → wrapPoint amount + s.clk.phaseIncrement.toNat ≤ 2 ^ 32

/-- The CLK_RISING of sequence number `k + 1` answered 1. -/
def RisesAt (amount : Byte) (s : State) (k : Nat) : Prop := (after (tickSequences amount (k + 1)) s).resp = 1

/-! ## RND -/

/-- R140 in integers: halve, and XOR the tap mask if the state was odd. -/
def galois (x : Nat) : Nat := if x % 2 = 1 then (x / 2) ^^^ 0xB400 else x / 2

/-! ## PG -/

/-- `v[k]` as 0 or 1. -/
def bitOf (v k : Nat) : Nat := v / 2 ^ k % 2

/-- `U8Mix` in integers (R197). -/
def mix (a b w : Nat) : Nat := (a * (255 - w) + b * w) / 256

/-- `ReadDrumMap` in integers (R200, R81). -/
def drumMapLevel (P : Params) (step part x y : Nat) : Nat :=
  let i := x / 64
  let j := y / 64
  let level (m : Nat) : Nat := (P.drumMap (Fin.ofNat 25 m) (Fin.ofNat 96 (32 * part + step))).toNat
  mix (mix (level (5 * i + j)) (level (5 * (i + 1) + j)) (x * 4 % 256))
    (mix (level (5 * i + (j + 1))) (level (5 * (i + 1) + (j + 1))) (x * 4 % 256)) (y * 4 % 256)

/-- Part `i` of three cells as a number. -/
def cell (t : Triple Byte) (i : Fin 3) : Nat := (t.get i).toNat

/-- A part's level in Drums mode with the perturbation `pert` (R201). -/
def levelWith (P : Params) (pg : Pg) (pert : Nat) (i : Fin 3) : Nat :=
  min 255 (drumMapLevel P pg.step.toNat i.val pg.opt.p0.toNat pg.opt.p1.toNat + pert)

/-- The trigger of R201 with that level. -/
def drumTrig (P : Params) (pg : Pg) (pert : Nat) (i : Fin 3) : Bool :=
  decide (255 - cell pg.density i < levelWith P pg pert i)

/-- The accent of R201 with that level. -/
def drumAcc (P : Params) (pg : Pg) (pert : Nat) (i : Fin 3) : Bool :=
  decide (255 - cell pg.density i < levelWith P pg pert i ∧ 192 < levelWith P pg pert i)

/-- The perturbation of part `i` that a Drums evaluation uses: drawn anew at step 0 from the LFSR state `rnd`, held at
every other step (R199). -/
def pertOf (rnd : Nat) (pg : Pg) (i : Fin 3) : Nat :=
  if pg.step.toNat = 0 then (rnd / 256) * (pg.opt.p2.toNat / 4) / 256 else cell pg.partPerturbation i

/-- A part's Euclidean length (R204). -/
def euclidLen (pg : Pg) (i : Fin 3) : Nat := cell pg.opt i / 8 + 1

/-- A part's Euclidean step reduced modulo its length (R204). -/
def euclidPos (pg : Pg) (i : Fin 3) : Nat := cell pg.euclideanStep i % euclidLen pg i

/-- Bit `k` of the part's pattern word, `k` the reduced step (R204, R82). -/
def euclidTrig (P : Params) (pg : Pg) (i : Fin 3) : Bool :=
  (P.euclidLut (Fin.ofNat 1024 (32 * (euclidLen pg i - 1) + cell pg.density i / 8))).getLsbD (euclidPos pg i)

/-- The part resets: its reduced step is 0 (R204). -/
def euclidRst (pg : Pg) (i : Fin 3) : Bool := decide (euclidPos pg i = 0)

/-- A PG_TICK at this PG state runs the Drums body (R196). -/
abbrev DrumsRuns (pg : Pg) : Prop := pg.pulse.toNat = 0 ∧ pg.options.outputMode = .drums

/-- A PG_TICK at this PG state runs the Euclidean body (R196). -/
abbrev EuclidRuns (pg : Pg) : Prop :=
  pg.pulse.toNat = 0 ∧ pg.options.outputMode = .euclidean ∧ pg.step.toNat % 2 = 0

/-- How many of the `k` steps that follow `step` leave an even step (R192). -/
def evenSteps (step k : Nat) : Nat := if step % 2 = 0 then (k + 1) / 2 else k / 2

/-- Bit 4 of the state when `output_clock` is set, given the state's clock bit (R202, R206). -/
def bit4 (P : Params) (clockBit : Bool) : Bool :=
  match P.pgClkmodeBit4 with
  | .zero => false
  | .clock => clockBit

/-- Bits 5:0 of a state: three triggers and three bits above them. -/
def lowBits (st : Byte) (trig : Fin 3 → Bool) (b3 b4 b5 : Bool) : Prop :=
  (∀ i : Fin 3, st.getLsbD i.val = trig i) ∧ st.getLsbD 3 = b3 ∧ st.getLsbD 4 = b4 ∧ st.getLsbD 5 = b5

/-- The number of the first `m` PG_TICK 3 after which part `i`'s trigger bit is 1. -/
def triggeredSteps (m : Nat) (i : Fin 3) (s : State) : Nat :=
  ((List.range m).filter fun k => (after (List.replicate (k + 1) (.pgTick 3)) s).pg.state.getLsbD i.val).length

/-! ## OSC -/

/-- The octaves a pitch is folded up by until it reaches the reference (R257). -/
def octaves (P : Params) (pitch : Int) : Nat := ((P.oscRefPitch.toInt - pitch + 1535) / 1536).toNat

/-- An entry of `OSC_INC_TABLE` (R84). -/
def incEntry (P : Params) (k : Nat) : Int := (P.oscIncTable (Fin.ofNat 97 k)).toNat

/-- `ComputePhaseIncrement` in closed form (R257). -/
def increment (P : Params) (pitch : Int) (noise : Bool) : Nat :=
  let k := (pitch + 1536 * octaves P pitch - P.oscRefPitch.toInt).toNat
  let t0 := incEntry P (k / 16)
  let t1 := incEntry P (k / 16 + 1)
  (t0 + (t1 - t0) * (k % 16 : Nat) / 16).toNat / 2 ^ (if noise then octaves P pitch - 1 else octaves P pitch)

/-- The increment a render with the gate open uses (R255): recomputed if stale, else the one held. -/
def renderIncrement (P : Params) (o : Osc) : Phase24 :=
  if o.dirty then BitVec.ofNat 24 (increment P o.pitch.toInt (decide (3 ≤ (shapeCode o.shape).toNat)))
  else o.phaseIncrement

/-- The phase summed over `k` samples, not reduced (R260). -/
def phaseAfter (P : Params) (o : Osc) (k : Nat) : Nat := o.phase.toNat + k * (renderIncrement P o).toNat

/-- One wavetable's value at a phase (R261). -/
def waveAt (bank : Fin 8 → Fin 257 → Sample) (z ph : Nat) : Int :=
  let a : Int := (bank (Fin.ofNat 8 z) (Fin.ofNat 257 (ph / 65536))).toNat
  let b : Int := (bank (Fin.ofNat 8 z) (Fin.ofNat 257 (ph / 65536 + 1))).toNat
  a + (b - a) * (ph / 256 % 256 : Nat) / 256

/-- The cross-faded value at a phase (R262). -/
def zoneAt (bank : Fin 8 → Fin 257 → Sample) (note : Int) (ph : Nat) : Int :=
  let n := (min (max (note - 12) 0) 127).toNat
  let s0 := waveAt bank (n / 16) ph
  let s1 := waveAt bank (min (n / 16 + 1) 7) ph
  s0 + (s1 - s0) * (n % 16 : Nat) / 16

/-- The wavetable sample `k` of a render (R264): the zones at the phase after `k` advances. -/
def waveSample (P : Params) (bank : Fin 8 → Fin 257 → Sample) (o : Osc) (k : Nat) : Sample :=
  BitVec.ofInt 12 (zoneAt bank o.note.toInt (phaseAfter P o k % 2 ^ 24))

/-- The auxiliary accumulator summed over `k` samples, not reduced (R263). -/
def auxAfter (P : Params) (o : Osc) (k : Nat) : Nat := o.auxPhase.toNat + k * (P.auxIncTable o.cvPw).toNat

/-- Sample `k` of RenderSine (R263): re-sampled where the auxiliary sum passes a multiple of 2^16, else held. -/
def heldSample (P : Params) (o : Osc) : Nat → Sample
  | 0 => o.sample
  | k + 1 =>
    if auxAfter P o k / 2 ^ 16 < auxAfter P o (k + 1) / 2 ^ 16 then waveSample P P.waveTri o (k + 1)
    else heldSample P o k

/-- The noise register after `k` samples: stepped once for each time the phase sum has passed a multiple of 2^24
(R265, R266). -/
def rngAfter (stepRng : Nat → Nat) (P : Params) (o : Osc) (k : Nat) : Nat :=
  stepRng^[phaseAfter P o k / 2 ^ 24] o.rng.toNat

/-- `NesStep` in integers (R265). -/
def nesStepNat (tap r : Nat) : Nat := (r / 2) ||| ((bitOf r 0 ^^^ bitOf r tap) * 2 ^ 14)

/-- The two levels of R265. -/
def nesLevelOf (r : Nat) : Sample := if r % 2 = 1 then 0x0300 else 0x0CFF

/-- The level of R266. -/
def noiseLevelOf (r : Nat) : Sample := BitVec.ofNat 12 (r % 4096 * 3 / 4 + 0x0200)

/-- The FIFO has room for a render (R255). -/
def HasRoom (P : Params) (s : State) : Prop := P.oscBlock ≤ P.fifoDepth - s.fifo.length

/-- The pitch lies in the octaves the table serves (R257); every reachable state's does (R55, R8). -/
def PitchInTable (P : Params) (o : Osc) : Prop := o.pitch.toInt ≤ P.oscRefPitch.toInt + 1535

/-- The state after a gate-open render whose sample `k` of 1 .. `OSC_BLOCK` is `f k`. What a shape's render writes
besides (the noise register, the auxiliary phase) is given. -/
def rendered (P : Params) (f : Nat → Sample) (rng auxPhase : Half) (s : State) : State :=
  { s with
    fifo := s.fifo ++ (List.range P.oscBlock).map fun k => f (k + 1)
    osc := { s.osc with
      phase := BitVec.ofNat 24 (phaseAfter P s.osc P.oscBlock)
      phaseIncrement := renderIncrement P s.osc
      dirty := false
      sample := f P.oscBlock
      rng := rng
      auxPhase := auxPhase } }

end Sys2Proof.Rules
end

