-- ==== Sys2Proof/Certificates/Slice0/Obligations.lean ====
section
/-! DEFINITION. The statements for the provers. Each says what a rule of spec/ says of a command or of the machine, in
the plain arithmetic of Certificates/Slice0/Rules.lean; a statement about `exec` holds for every state and operand
that its hypotheses admit, and its record update is the frame: what the update does not name is unchanged. -/

open Sys2Proof Sys2Proof.Machine Sys2Proof.Rules

/-! ## Reset and the machine as a whole -/

/-- R321: the value of every state element after reset. -/
def Obligations.ResetLeavesListedValues : Prop :=
  let P := Config.params
  State.reset =
    { resp := 0, fault := false, cause := 0, faultCmd := 0, fifo := [], rnd := P.rndSeedReset, host := State.reset.host
      clk := { bpm := P.clkInitBpm, phase := 0, phaseIncrement := P.clockIncrement P.clkInitBpm P.clkInitRes,
               fallingEdge := 0x40, locked := false }
      pg := { opt := ⟨P.pgSettingsReset 0, P.pgSettingsReset 1, P.pgSettingsReset 2⟩
              density := ⟨P.pgSettingsReset 3, P.pgSettingsReset 4, P.pgSettingsReset 5⟩
              options := unpack (P.pgSettingsReset 6)
              pulse := 0, step := 0, euclideanStep := ⟨0, 0, 0⟩, partPerturbation := ⟨0, 0, 0⟩, state := 0 }
      osc := { phase := 0, phaseIncrement := 0, auxPhase := 0, sample := 2048, rng := P.oscRngReset,
               shape := P.oscShapeReset, gate := false, pitch := P.oscPitchReset,
               note := BitVec.ofInt 16 (P.oscPitchReset.toInt / 128), cvPw := 0, dirty := true } } ∧
  fifoFree P State.reset = P.fifoDepth ∧ portValue P .pattern State.reset = .pattern 0

/-- The invariant of Safety.lean holds at reset. -/
def Obligations.ResetMeetsTheInvariant : Prop := State.reset.Inv Config.params

/-- Every step keeps the invariant of Safety.lean, from every state that meets it: nonzero LFSRs, ranges of the clock,
pattern and oscillator registers, a FIFO within its depth, a fault latch that names a cause its word can raise. -/
def Obligations.EveryStepKeepsTheInvariant : Prop :=
  ∀ s t : State, s.Inv Config.params → step s = .next t → t.Inv Config.params

/-- R100: a presented word that decodes is performed by its command's meaning, and the host's list moves on. -/
def Obligations.StepRunsTheDecodedCommand : Prop :=
  ∀ (w : Word) (rest : List HostAction) (i : Instr) (s : State),
    s.host = .command w :: rest → s.fault = false → decode w = .ok i → step s = exec i { s with host := rest }

/-- R105, R103, R291: a presented word that does not decode raises its cause and changes nothing else. -/
def Obligations.UndecodedWordRaisesItsCause : Prop :=
  ∀ (w : Word) (rest : List HostAction) (s : State), s.host = .command w :: rest → s.fault = false →
    (decode w = .error .illegalOpcode → step s = .next (latched 1 w { s with host := rest })) ∧
    (decode w = .error .reservedField → step s = .next (latched 2 w { s with host := rest }))

/-- R295, R296: while `FAULT = 1`, any sequence of words is ignored; they are taken from the host and nothing changes. -/
def Obligations.LatchedCoreIgnoresEveryWord : Prop :=
  ∀ (ws : List Word) (rest : List HostAction) (s : State), s.fault = true →
    Host.Core.run Sys2Proof.core ws.length { s with host := ws.map .command ++ rest } = .next { s with host := rest }

/-- R305, R31, R32, R33, R88, R304, R320: the ports and the host's other actions. The response port shows `RESP`, the
status port its four fields, the pattern port `PG.state` and the FIFO head the oldest sample, in every state (that the
head of an empty FIFO shows no sample is the model's choice, assumption 15). Reading a port changes nothing; a removal
takes the oldest sample and nothing else (the stop on an empty FIFO is the model's choice, assumption 4); reset gives
every state element its reset value, whatever the state was (that the host's own list stays is the model's choice,
assumption 6); and with no action to take the CORE holds its state. -/
def Obligations.HostActionsAtTheBoundary : Prop :=
  let P := Config.params
  ∀ (s : State) (rest : List HostAction) (p : Port) (v : Sample) (samples : List Sample),
    portValue P .response s = .response s.resp ∧
    portValue P .status s = .status
      { fault := s.fault, cause := s.cause, faultCmd := s.faultCmd, fifoFree := P.fifoDepth - s.fifo.length } ∧
    portValue P .pattern s = .pattern s.pg.state ∧
    portValue P .sampleHead { s with fifo := v :: samples } = .sampleHead (some v) ∧
    portValue P .sampleHead { s with fifo := [] } = .sampleHead none ∧
    step { s with host := .readPort p :: rest } = .next { s with host := rest } ∧
    step { s with host := .removeSample :: rest, fifo := v :: samples } =
      .next { s with host := rest, fifo := samples } ∧
    step { s with host := .removeSample :: rest, fifo := [] } = .fault .removeFromEmptyFifo ∧
    step { s with host := .reset :: rest } = .next { State.reset with host := rest } ∧
    step { s with host := [] } = .next { s with host := [] }

/-- R14, R297: a word that faults leaves every state element as it was, apart from the latch, which holds that word. -/
def Obligations.FaultingWordChangesOnlyTheLatch : Prop :=
  ∀ (w : Word) (s t : State), s.fault = false → performWord w s = .next t → t.fault = true →
    ∃ c ∈ wordCauses w, t = latched (causeCode c) w s

/-- R293, R294: a command that breaks its contract raises that cause with its own word, and one that keeps it runs to
a next state without touching the latch. -/
def Obligations.CommandsRaiseExactlyTheirCauses : Prop :=
  ∀ (i : Instr) (s : State),
    match violation Config.params s i with
    | some c => exec i s = .next (latched (causeCode c) (encode i) s)
    | none => ∃ t, exec i s = .next t ∧ t.fault = s.fault ∧ t.cause = s.cause ∧ t.faultCmd = s.faultCmd

/-- R31: only the query commands write `RESP`. -/
def Obligations.OnlyQueriesWriteResp : Prop :=
  ∀ (i : Instr) (s t : State), isQuery i = false → exec i s = .next t → t.resp = s.resp

/-- R88: no command removes or changes a FIFO entry, and only OSC_RENDER appends any, `OSC_BLOCK` of them. -/
def Obligations.CommandsOnlyAppendToTheFifo : Prop :=
  ∀ (i : Instr) (s t : State), exec i s = .next t →
    ∃ added, t.fifo = s.fifo ++ added ∧ (added ≠ [] → i = .oscRender ∧ added.length = Config.params.oscBlock)

/-- R171 and the unit rules: no command of one unit writes another unit's registers, but for PG_TICK's LFSR advance. -/
def Obligations.UnitsKeepToTheirOwnRegisters : Prop :=
  ∀ (i : Instr) (s t : State), exec i s = .next t →
    t.host = s.host ∧
    (unitOf i ≠ 1 → (∀ n, i ≠ .pgTick n) → t.rnd = s.rnd) ∧
    (unitOf i ≠ 2 → t.clk = s.clk) ∧ (unitOf i ≠ 3 → t.pg = s.pg) ∧ (unitOf i ≠ 4 → t.osc = s.osc)

/-- R40: no command but CLK_LOCKED and READ 0x24 depends on `CLK.locked`. -/
def Obligations.NoOtherCommandDependsOnTheLock : Prop :=
  ∀ (i : Instr) (s t : State) (b : Bool), i ≠ .clkLocked → i ≠ .read 0x24 → exec i s = .next t →
    exec i { s with clk := { s.clk with locked := b } } =
      .next { t with clk := { t.clk with
        locked := if i = .clkInit ∨ i = .clkLock ∨ i = .clkUnlock then t.clk.locked else b } }

/-! ## Encoding -/

/-- R103, R104: every command decodes back from its word. -/
def Obligations.DecodeOfEncodeIsTheCommand : Prop := ∀ i : Instr, decode (encode i) = .ok i

/-- R103: a word that decodes is the word of the command it decodes to, so no accepted word has a second meaning. -/
def Obligations.AcceptedWordIsItsCommandsWord : Prop := ∀ (w : Word) (i : Instr), decode w = .ok i → encode i = w

/-- R108: a word is valid exactly when a row of the opcode table matches it; otherwise it is a reserved-field word
when its opcode is a row's, and an illegal one when it is not. -/
def Obligations.WordsFallIntoThreeClasses : Prop :=
  ∀ w : Word,
    ((∃ i, decode w = .ok i) ↔ ∃ row ∈ opcodeRows, w &&& row.2 = row.1) ∧
    (decode w = .error .illegalOpcode ↔ ∀ row ∈ opcodeRows, w.extractLsb' 24 8 ≠ row.1.extractLsb' 24 8) ∧
    (decode w = .error .reservedField ↔
      (∃ row ∈ opcodeRows, w.extractLsb' 24 8 = row.1.extractLsb' 24 8) ∧ ∀ row ∈ opcodeRows, w &&& row.2 ≠ row.1)

/-- R109 and the vectors V-ENC: words written out from R101 and R104 decode to their commands. -/
def Obligations.WrittenWordsDecode : Prop :=
  decode 0x01230000 = .ok (.read 0x23) ∧ decode 0x1100ACE1 = .ok (.rndSeed 0xACE1) ∧
  decode 0x21020078 = .ok (.clkUpdate 2 120) ∧ decode 0x23FB0000 = .ok (.clkWrap 0xFB) ∧
  decode 0x330300C8 = .ok (.pgSet 3 200) ∧ decode 0x4100FF80 = .ok (.oscSetPitch 0xFF80) ∧
  decode 0x45000000 = .ok .oscRender ∧ decode 0x00000000 = .error .illegalOpcode ∧
  decode 0x10000001 = .error .reservedField

/-- R109, R106: the assembler gives back every command from its mnemonic and its operands, and refuses every operand of
every command out of its field's range, whatever the other operand is. -/
def Obligations.AssemblerGivesBackEveryCommand : Prop :=
  (∀ i : Instr, assemble (mnemonicOf i) (i.operands.map Operand.value) = some [i]) ∧
  (∀ v u : Int, v < 0 ∨ 255 < v →
    assemble "READ" [v] = none ∧ assemble "CLK_UPDATE" [v, u] = none ∧ assemble "PG_TICK" [v] = none ∧
    assemble "PG_SET" [v, u] = none ∧ assemble "PG_SET" [u, v] = none ∧ assemble "OSC_SET_SHAPE" [v] = none ∧
    assemble "OSC_SET_GATE" [v] = none ∧ assemble "OSC_SET_PW" [v] = none) ∧
  (∀ v u : Int, v < 0 ∨ 65535 < v → assemble "RND_SEED" [v] = none ∧ assemble "CLK_UPDATE" [u, v] = none) ∧
  (∀ v : Int, v < -128 ∨ 127 < v → assemble "CLK_WRAP" [v] = none) ∧
  (∀ v : Int, v < -32768 ∨ 32767 < v → assemble "OSC_SET_PITCH" [v] = none)

/-- R111: what the pseudo-instructions expand to. -/
def Obligations.PseudoInstructionsExpand : Prop :=
  (∀ v : Byte,
    assemble "PG_SET_X" [v.toNat] = some [.pgSet 0 v] ∧ assemble "PG_SET_LEN0" [v.toNat] = some [.pgSet 0 v] ∧
    assemble "PG_SET_Y" [v.toNat] = some [.pgSet 1 v] ∧ assemble "PG_SET_LEN1" [v.toNat] = some [.pgSet 1 v] ∧
    assemble "PG_SET_RANDOMNESS" [v.toNat] = some [.pgSet 2 v] ∧
    assemble "PG_SET_LEN2" [v.toNat] = some [.pgSet 2 v] ∧
    ∀ i : Fin 3, assemble "PG_SET_DENSITY" [i.val, v.toNat] = some [.pgSet (BitVec.ofNat 8 (3 + i.val)) v]) ∧
  (∀ o : Options,
    assemble "PG_SET_OPTIONS" [o.clockResolution.val, o.swing.toNat, o.tapTempo.toNat, o.outputClock.toNat,
      (decide (o.outputMode = .drums)).toNat, o.gateMode.toNat] = some [.pgSet 6 (pack o)]) ∧
  (∀ a : Byte,
    assemble "CLK_STEP" [a.toInt] = some [.clkTick, .clkWrap a] ∧
    assemble "TICK_AND_TEST" [a.toInt] = some [.clkTick, .clkWrap a, .clkRising])

/-! ## READ -/

/-- R110, R34: READ answers the numbered register, zero-extended, and faults on every other number. -/
def Obligations.ReadAnswersTheNumberedRegister : Prop :=
  EncodedAs 0x01 0x0000FFFF (fun b _ => .read b) ∧
  ∀ (reg : Byte) (s : State),
    match (registerTable s).lookup reg.toNat with
    | some v => Answers (.read reg) s v
    | none => exec (.read reg) s = .next (latched 3 (encode (.read reg)) s)

/-! ## RND -/

/-- R140: one Galois step, and the step is a bijection on the nonzero u16 values. That the XOR hangs on bit 0 the spec
marks as general knowledge (assumption 9), and the bijection as its own enumeration ("[derived: from
95_test_vectors.md V-RND-P, an exhaustive enumeration of this rule]"). -/
def Obligations.RndUpdateIsOneGaloisStep : Prop :=
  EncodedAs 0x10 0x00FFFFFF (fun _ _ => .rndUpdate) ∧
  (∀ s : State, exec .rndUpdate s = .next { s with rnd := BitVec.ofNat 16 (galois s.rnd.toNat) }) ∧
  galois 0 = 0 ∧ (∀ x : Half, x ≠ 0 → 0 < galois x.toNat ∧ galois x.toNat < 2 ^ 16) ∧
  ∀ y : Half, y ≠ 0 → ∃ x : Half, x ≠ 0 ∧ ∀ z : Half, galois z.toNat = y.toNat ↔ z = x

/-- R142: 0 faults, any other seed becomes the state. -/
def Obligations.RndSeedGuardsZero : Prop :=
  EncodedAs 0x11 0x00FF0000 (fun _ h => .rndSeed h) ∧
  ∀ (v : Half) (s : State), exec (.rndSeed v) s =
    .next (if v.toNat = 0 then latched 4 (encode (.rndSeed v)) s else { s with rnd := v })

/-- R141, R143: the state, and its top byte; neither advances the LFSR. -/
def Obligations.RndQueriesAnswerTheState : Prop :=
  EncodedAs 0x12 0x00FFFFFF (fun _ _ => .rndState) ∧ EncodedAs 0x13 0x00FFFFFF (fun _ _ => .rndByte) ∧
  ∀ s : State, Answers .rndState s s.rnd.toNat ∧ Answers .rndByte s (s.rnd.toNat / 256)

/-- R144: from a nonzero state the RND_UPDATE commands run through every nonzero state and come back after exactly
65535, never through 0. A law the spec marks as its
own derivation ("[derived: from rule R140]"); the step's XOR on bit 0 it marks as general knowledge (G1, assumption
9). -/
def Obligations.RndPeriodIsMaximal : Prop :=
  ∀ s : State, s.fault = false → s.rnd ≠ 0 →
    let rndAfter := fun k : Nat => (after (List.replicate k .rndUpdate) s).rnd
    rndAfter 65535 = s.rnd ∧ (∀ k, 0 < k → k < 65535 → rndAfter k ≠ s.rnd) ∧ (∀ k, rndAfter k ≠ 0) ∧
    ∀ v : Half, v ≠ 0 → ∃ k < 65535, rndAfter k = v

/-! ## CLK -/

/-- R160, and the conditions its parameters satisfy. -/
def Obligations.ClkInitSetsDefaults : Prop :=
  EncodedAs 0x20 0x00FFFFFF (fun _ _ => .clkInit) ∧
  let P := Config.params
  (P.clkBpmMin.toNat ≤ P.clkInitBpm.toNat ∧ P.clkInitBpm.toNat ≤ P.clkBpmMax.toNat ∧ P.clkInitRes.toNat ≤ 2) ∧
  ∀ s : State, exec .clkInit s =
    .next { s with clk := { bpm := P.clkInitBpm, phaseIncrement := P.clockIncrement P.clkInitBpm P.clkInitRes,
                            phase := 0, fallingEdge := 0x40, locked := false } }

/-- R161, R294: the resolution is checked before the BPM; a legal pair sets the BPM and the increment and no more; and
the increment of every legal pair lies in `1 .. 2^31 - 1`. -/
def Obligations.ClkUpdateSetsTempo : Prop :=
  EncodedAs 0x21 0 (fun b h => .clkUpdate b h) ∧
  let P := Config.params
  (∀ (bpm : Half) (res : BitVec 2), P.clkBpmMin.toNat ≤ bpm.toNat → bpm.toNat ≤ P.clkBpmMax.toNat → res.toNat ≤ 2 →
    1 ≤ (P.clockIncrement bpm res).toNat ∧ (P.clockIncrement bpm res).toNat ≤ 2 ^ 31 - 1) ∧
  ∀ (res : Byte) (bpm : Half) (s : State), exec (.clkUpdate res bpm) s =
    .next (if 2 < res.toNat then latched 5 (encode (.clkUpdate res bpm)) s
      else if bpm.toNat < P.clkBpmMin.toNat ∨ P.clkBpmMax.toNat < bpm.toNat then
        latched 6 (encode (.clkUpdate res bpm)) s
      else { s with clk := { s.clk with
        bpm := bpm, phaseIncrement := P.clockIncrement bpm (BitVec.ofNat 2 res.toNat) } })

/-- R162. -/
def Obligations.ClkTickAddsModulo2To32 : Prop :=
  EncodedAs 0x22 0x00FFFFFF (fun _ _ => .clkTick) ∧
  ∀ s : State, exec .clkTick s = .next { s with clk := { s.clk with
    phase := BitVec.ofNat 32 ((s.clk.phase.toNat + s.clk.phaseIncrement.toNat) % 2 ^ 32) } }

/-- R163: the fault at -128, the source's zero case, and the swing case. -/
def Obligations.ClkWrapFoldsThePhase : Prop :=
  EncodedAs 0x23 0x0000FFFF (fun b _ => .clkWrap b) ∧
  ∀ (amount : Byte) (s : State), exec (.clkWrap amount) s =
    .next (if amount.toInt = -128 then latched 7 (encode (.clkWrap amount)) s
      else if amount.toInt = 0 then { s with clk := { s.clk with
        phase := BitVec.ofNat 32 (s.clk.phase.toNat % 2 ^ 31), fallingEdge := 0x40 } }
      else { s with clk := { s.clk with
        phase := if wrapPoint amount ≤ s.clk.phase.toNat then BitVec.ofNat 32 (s.clk.phase.toNat - wrapPoint amount)
          else s.clk.phase
        fallingEdge := BitVec.ofNat 8 ((128 + amount.toInt).toNat / 2) } })

/-- R164, R165, R166. -/
def Obligations.ClkResetLockUnlock : Prop :=
  EncodedAs 0x24 0x00FFFFFF (fun _ _ => .clkReset) ∧ EncodedAs 0x25 0x00FFFFFF (fun _ _ => .clkLock) ∧
  EncodedAs 0x26 0x00FFFFFF (fun _ _ => .clkUnlock) ∧
  ∀ s : State,
    exec .clkReset s = .next { s with clk := { s.clk with phase := 0 } } ∧
    exec .clkLock s = .next { s with clk := { s.clk with locked := true } } ∧
    exec .clkUnlock s = .next { s with clk := { s.clk with locked := false } }

/-- R167, R168, R169. -/
def Obligations.ClkQueriesAnswerThePredicates : Prop :=
  EncodedAs 0x27 0x00FFFFFF (fun _ _ => .clkRising) ∧ EncodedAs 0x28 0x00FFFFFF (fun _ _ => .clkFallen) ∧
  EncodedAs 0x29 0x00FFFFFF (fun _ _ => .clkLocked) ∧
  ∀ s : State,
    Answers .clkRising s (if s.clk.phase.toNat < s.clk.phaseIncrement.toNat then 1 else 0) ∧
    Answers .clkFallen s (if s.clk.fallingEdge.toNat ≤ s.clk.phase.toNat / 2 ^ 24 then 1 else 0) ∧
    Answers .clkLocked s (if s.clk.locked then 1 else 0)

/-- R170: after `k + 1` tick sequences the phase is the sum reduced modulo the wrap point, and the last CLK_RISING
answers 1 exactly when the last tick reached the wrap point. For a positive amount R170's law needs more than the rule
says, that no sum passes 2^32 (assumption 13). -/
def Obligations.TickSequencesWrapAtTheWrapPoint : Prop :=
  ∀ (amount : Byte) (s : State) (k : Nat), TickLawApplies amount s →
    let p := s.clk.phase.toNat
    let inc := s.clk.phaseIncrement.toNat
    let top := wrapPoint amount
    after (tickSequences amount (k + 1)) s = { s with
      resp := if top ≤ (p + k * inc) % top + inc then 1 else 0
      clk := { s.clk with
        phase := BitVec.ofNat 32 ((p + (k + 1) * inc) % top)
        fallingEdge := BitVec.ofNat 8 ((128 + amount.toInt).toNat / 2) } }

/-- R170: from phase 0 the first rising edge is at sequence `ceil(W / inc)`, and two consecutive rising edges are
`floor(W / inc)` or `ceil(W / inc)` sequences apart; under the same conditions as the statement before. -/
def Obligations.RisingEdgesAreEvenlySpaced : Prop :=
  ∀ (amount : Byte) (s : State), TickLawApplies amount s →
    let inc := s.clk.phaseIncrement.toNat
    let top := wrapPoint amount
    (s.clk.phase = 0 → RisesAt amount s ((top + inc - 1) / inc - 1) ∧
      ∀ k < (top + inc - 1) / inc - 1, ¬ RisesAt amount s k) ∧
    ∀ j k : Nat, j < k → RisesAt amount s j → RisesAt amount s k →
      (∀ m, j < m → m < k → ¬ RisesAt amount s m) → k - j = top / inc ∨ k - j = (top + inc - 1) / inc

/-! ## PG -/

/-- R190. -/
def Obligations.PgInitLoadsSettings : Prop :=
  EncodedAs 0x30 0x00FFFFFF (fun _ _ => .pgInit) ∧
  let P := Config.params
  ∀ s : State, exec .pgInit s = .next { s with pg :=
    { opt := ⟨P.pgSettingsReset 0, P.pgSettingsReset 1, P.pgSettingsReset 2⟩
      density := ⟨P.pgSettingsReset 3, P.pgSettingsReset 4, P.pgSettingsReset 5⟩
      options := unpack (P.pgSettingsReset 6)
      pulse := 0, step := 0, euclideanStep := ⟨0, 0, 0⟩, partPerturbation := ⟨0, 0, 0⟩, state := 0 } }

/-- R191. -/
def Obligations.PgResetZeroesThePosition : Prop :=
  EncodedAs 0x31 0x00FFFFFF (fun _ _ => .pgReset) ∧
  ∀ s : State, exec .pgReset s =
    .next { s with pg := { s.pg with step := 0, pulse := 0, euclideanStep := ⟨0, 0, 0⟩ } }

/-- R192: the pulse sum at full width, the steps it makes, the Euclidean steps moved on leaving each even step, from
what the evaluation left; and the frame. What the evaluation writes is in the statements below. -/
def Obligations.PgTickCountsPulsesAndSteps : Prop :=
  EncodedAs 0x32 0x0000FFFF (fun b _ => .pgTick b) ∧
  ∀ (n : Byte) (s : State),
    let total := s.pg.pulse.toNat + n.toNat
    ∃ t, exec (.pgTick n) s = .next t ∧
      t = { s with rnd := t.rnd, pg := { s.pg with
        state := t.pg.state, partPerturbation := t.pg.partPerturbation, euclideanStep := t.pg.euclideanStep
        pulse := BitVec.ofNat 8 (total % 3), step := BitVec.ofNat 5 (s.pg.step.toNat + total / 3) } } ∧
      ∀ i : Fin 3, cell t.pg.euclideanStep i =
        ((if EuclidRuns s.pg then euclidPos s.pg i else cell s.pg.euclideanStep i) +
          evenSteps s.pg.step.toNat (total / 3)) % 256

/-- R193, R194: every PG_TICK advances the LFSR once, inverts the clock bit and takes the LFSR's new top bit. The LFSR's
step is R140's with its XOR on bit 0, which the spec marks as general knowledge (G1, assumption 9). -/
def Obligations.PgTickRefreshesTheTopBits : Prop :=
  ∀ (n : Byte) (s : State), ∃ t, exec (.pgTick n) s = .next t ∧
    t.rnd.toNat = galois s.rnd.toNat ∧ t.pg.state.getLsbD 6 = !s.pg.state.getLsbD 6 ∧
    t.pg.state.getLsbD 7 = decide (2 ^ 15 ≤ galois s.rnd.toNat)

/-- R196: where no body runs (a pulse other than 0, or an odd step in Euclidean mode), bits 5:0 and the perturbations
are held. -/
def Obligations.PgTickHoldsBitsWithoutABody : Prop :=
  ∀ (n : Byte) (s : State), ¬ DrumsRuns s.pg → ¬ EuclidRuns s.pg → ∃ t, exec (.pgTick n) s = .next t ∧
    (∀ k < 6, t.pg.state.getLsbD k = s.pg.state.getLsbD k) ∧ t.pg.partPerturbation = s.pg.partPerturbation

/-- R198 to R202: the Drums body. The perturbations, drawn at step 0 from the advanced LFSR; each part's trigger and
accent from its interpolated level; and the layout with and without `output_clock`. The levels rest on the
blend of R197 and the perturbations on the step of R140, which the spec marks as general knowledge (G2, G1,
assumption 9). -/
def Obligations.DrumsTickWritesTriggersAndAccents : Prop :=
  let P := Config.params
  ∀ (n : Byte) (s : State), DrumsRuns s.pg →
    let pert := pertOf (galois s.rnd.toNat) s.pg
    let acc := fun i => drumAcc P s.pg (pert i) i
    ∃ t, exec (.pgTick n) s = .next t ∧ (∀ i, cell t.pg.partPerturbation i = pert i) ∧
      if s.pg.options.outputClock then
        lowBits t.pg.state (fun i => drumTrig P s.pg (pert i) i) (acc 0 || acc 1 || acc 2)
          (bit4 P (!s.pg.state.getLsbD 6)) (decide (s.pg.step.toNat = 0))
      else lowBits t.pg.state (fun i => drumTrig P s.pg (pert i) i) (acc 0) (acc 1) (acc 2)

/-- R204, R206: the Euclidean body. Each part's trigger is its pattern word's bit at the reduced step, its reset that
this step is 0; and the layout with and without `output_clock`. The perturbations are held. -/
def Obligations.EuclideanTickWritesTriggersAndResets : Prop :=
  let P := Config.params
  ∀ (n : Byte) (s : State), EuclidRuns s.pg →
    ∃ t, exec (.pgTick n) s = .next t ∧ t.pg.partPerturbation = s.pg.partPerturbation ∧
      if s.pg.options.outputClock then
        lowBits t.pg.state (euclidTrig P s.pg) false (bit4 P (!s.pg.state.getLsbD 6))
          (euclidRst s.pg 0 && euclidRst s.pg 1 && euclidRst s.pg 2)
      else lowBits t.pg.state (euclidTrig P s.pg) (euclidRst s.pg 0) (euclidRst s.pg 1) (euclidRst s.pg 2)

/-- R195: after PG_RESET and any PG_TICK commands, the pulse and the step are the pulses received, counted in threes.
A law the spec marks as its own derivation ("[derived: from rule R191 and rule R192]"). -/
def Obligations.PulseAndStepFollowTheTotal : Prop :=
  ∀ (ns : List Byte) (s : State), s.fault = false →
    let t := after (.pgReset :: ns.map .pgTick) s
    let total := (ns.map BitVec.toNat).sum
    t.pg.pulse.toNat = total % 3 ∧ t.pg.step.toNat = total / 3 % 32

/-- R203: raising one part's density, all else fixed, only adds to the steps that part triggers on, so it never lowers
their number, over a full pattern (`m = 32`) or any other number of steps.
A law the spec marks as its own derivation ("[derived: from rule R193 and rule R201]"). -/
def Obligations.DensityNeverLowersTriggers : Prop :=
  ∀ (m : Nat) (i : Fin 3) (d : Byte) (s : State), s.fault = false → s.pg.options.outputMode = .drums →
    cell s.pg.density i ≤ d.toNat →
    let raised : State := { s with pg := { s.pg with density := s.pg.density.set i d } }
    (∀ k < m, (after (List.replicate (k + 1) (.pgTick 3)) s).pg.state.getLsbD i.val = true →
      (after (List.replicate (k + 1) (.pgTick 3)) raised).pg.state.getLsbD i.val = true) ∧
    triggeredSteps m i s ≤ triggeredSteps m i raised

/-- R205: in Euclidean mode the LFSR reaches bit 7 of the state and nothing else of the PG unit, over any ticks.
A law the spec marks as its own derivation ("[derived: from rule R194, rule R204 and rule R206]"). -/
def Obligations.EuclideanModeIgnoresTheLfsr : Prop :=
  ∀ (ns : List Byte) (r : Half) (s : State), s.fault = false → s.pg.options.outputMode = .euclidean →
    let t := after (ns.map .pgTick) s
    let u := after (ns.map .pgTick) { s with rnd := r }
    u.pg = { t.pg with state := u.pg.state } ∧ ∀ k < 7, u.pg.state.getLsbD k = t.pg.state.getLsbD k

/-- R43: the mode fields other than `output_clock` and `output_mode` are stored only; PG_TICK does not read them. -/
def Obligations.StoredOnlyOptionsDoNotReachATick : Prop :=
  ∀ (n : Byte) (o : Options) (s t : State), o.outputClock = s.pg.options.outputClock →
    o.outputMode = s.pg.options.outputMode → exec (.pgTick n) s = .next t →
    exec (.pgTick n) { s with pg := { s.pg with options := o } } =
      .next { t with pg := { t.pg with options := o } }

/-- R207: the cells PG_SET writes, and BAD_INDEX above 6. -/
def Obligations.PgSetWritesOneSetting : Prop :=
  EncodedAs 0x33 0x0000FF00 (fun b h => .pgSet b (h.extractLsb' 0 8)) ∧
  ∀ (idx v : Byte) (s : State), exec (.pgSet idx v) s =
    .next (if 6 < idx.toNat then latched 8 (encode (.pgSet idx v)) s
      else { s with pg := { s.pg with
        opt := ⟨if idx = 0 then v else s.pg.opt.p0, if idx = 1 then v else s.pg.opt.p1,
          if idx = 2 then v else s.pg.opt.p2⟩
        density := ⟨if idx = 3 then v else s.pg.density.p0, if idx = 4 then v else s.pg.density.p1,
          if idx = 5 then v else s.pg.density.p2⟩
        options := if idx = 6 then unpack v else s.pg.options } })

/-- R208, R209. -/
def Obligations.PgQueriesAnswerStateAndStep : Prop :=
  EncodedAs 0x34 0x00FFFFFF (fun _ _ => .pgState) ∧ EncodedAs 0x35 0x00FFFFFF (fun _ _ => .pgStep) ∧
  ∀ s : State, Answers .pgState s s.pg.state.toNat ∧ Answers .pgStep s s.pg.step.toNat

/-- R197: the blend in integers; it never exceeds the larger of the two, and weight 0 loses 1. The formula the spec
marks as general knowledge (assumption 9). -/
def Obligations.U8MixNeverExceedsItsInputs : Prop :=
  ∀ a b w : Byte, (u8Mix a b w).toNat = mix a.toNat b.toNat w.toNat ∧
    (u8Mix a b w).toNat ≤ max a.toNat b.toNat ∧ (u8Mix a b 0).toNat = a.toNat - 1

/-- R210, R211, R212: the packed byte's bits, and the round trips, a law the spec marks as its own derivation
("[derived: from rule R210 and rule R211]"). -/
def Obligations.PackAndUnpackRoundTrip : Prop :=
  (∀ o : Options, (pack o).toNat = o.clockResolution.val + (1 - o.swing.toNat) * 8 + o.tapTempo.toNat * 16 +
      o.outputClock.toNat * 32 + (if o.outputMode = .drums then 64 else 0) + (1 - o.gateMode.toNat) * 128 ∧
    unpack (pack o) = o) ∧
  ∀ v : Byte, (unpack v).clockResolution.val = min (v.toNat % 8) 2 ∧
    (unpack v).swing.toNat = 1 - bitOf v.toNat 3 ∧ (unpack v).tapTempo.toNat = bitOf v.toNat 4 ∧
    (unpack v).outputClock.toNat = bitOf v.toNat 5 ∧
    ((unpack v).outputMode = .drums ↔ bitOf v.toNat 6 = 1) ∧ (unpack v).gateMode.toNat = 1 - bitOf v.toNat 7 ∧
    pack (unpack v) = if v.toNat % 8 ≤ 2 then v else (v &&& 0xF8) ||| 2

/-! ## OSC -/

/-- R258, and the constraints its parameters meet. -/
def Obligations.OscInitRestoresTheOscillator : Prop :=
  EncodedAs 0x40 0x00FFFFFF (fun _ _ => .oscInit) ∧
  let P := Config.params
  (P.oscRngReset ≠ 0 ∧ (shapeCode P.oscShapeReset).toNat ≤ 5 ∧ P.oscPitchMin.toInt ≤ P.oscPitchReset.toInt ∧
    P.oscPitchReset.toInt ≤ P.oscPitchMax.toInt) ∧
  ∀ s : State, exec .oscInit s = .next { s with osc :=
    { phase := 0, phaseIncrement := 0, auxPhase := 0, sample := 2048, rng := P.oscRngReset,
      shape := P.oscShapeReset, gate := false, pitch := P.oscPitchReset,
      note := BitVec.ofInt 16 (P.oscPitchReset.toInt / 128), cvPw := 0, dirty := true } }

/-- R251. -/
def Obligations.OscSetPitchQuantizesTheNote : Prop :=
  EncodedAs 0x41 0x00FF0000 (fun _ h => .oscSetPitch h) ∧
  let P := Config.params
  ∀ (p : Half) (s : State), exec (.oscSetPitch p) s =
    .next (if p.toInt < P.oscPitchMin.toInt ∨ P.oscPitchMax.toInt < p.toInt then
        latched 11 (encode (.oscSetPitch p)) s
      else { s with osc := { s.osc with
        pitch := p, note := BitVec.ofInt 16 (p.toInt / 128),
        dirty := if p ≠ s.osc.pitch then true else s.osc.dirty } })

/-- R252, R250: the six shapes by their codes, BAD_SHAPE above 5; the increment is not made stale. -/
def Obligations.OscSetShapeSelectsByCode : Prop :=
  EncodedAs 0x42 0x0000FFFF (fun b _ => .oscSetShape b) ∧
  ∀ (shape : Byte) (s : State), exec (.oscSetShape shape) s =
    .next (if 5 < shape.toNat then latched 9 (encode (.oscSetShape shape)) s
      else { s with osc := { s.osc with
        shape := [.sine, .triangle, .nesTriangle, .nesNoiseShort, .nesNoiseLong, .noise].getD shape.toNat .sine } })

/-- R253: BAD_GATE above 1; a gate that opens makes the increment stale. -/
def Obligations.OscSetGateMarksTheOpening : Prop :=
  EncodedAs 0x43 0x0000FFFF (fun b _ => .oscSetGate b) ∧
  ∀ (g : Byte) (s : State), exec (.oscSetGate g) s =
    .next (if 1 < g.toNat then latched 10 (encode (.oscSetGate g)) s
      else { s with osc := { s.osc with
        gate := decide (g.toNat = 1)
        dirty := if s.osc.gate = false ∧ g.toNat = 1 then true else s.osc.dirty } })

/-- R254. -/
def Obligations.OscSetPwStoresTheWidth : Prop :=
  EncodedAs 0x44 0x0000FFFF (fun b _ => .oscSetPw b) ∧
  ∀ (w : Byte) (s : State), exec (.oscSetPw w) s = .next { s with osc := { s.osc with cvPw := w } }

/-- R255, R256: a FIFO without room faults BUFFER_FULL before anything else; with room and the gate closed the render
emits `OSC_BLOCK` samples of 2048 and changes nothing but the FIFO and the held sample. -/
def Obligations.RenderFaultsWhenFullAndIsSilentWhenClosed : Prop :=
  EncodedAs 0x45 0x00FFFFFF (fun _ _ => .oscRender) ∧
  let P := Config.params
  ∀ s : State,
    (P.fifoDepth - s.fifo.length < P.oscBlock → exec .oscRender s = .next (latched 12 (encode .oscRender) s)) ∧
    (HasRoom P s → s.osc.gate = false → exec .oscRender s =
      .next { s with
        fifo := s.fifo ++ List.replicate P.oscBlock 2048
        osc := { s.osc with sample := 2048 } })

/-- R255, R264: with the gate open and a triangle shape, sample `k` is the cross-faded wavetable at the phase after `k`
increments, modulo 2^24. -/
def Obligations.RenderTriangleReadsTheWavetables : Prop :=
  let P := Config.params
  ∀ s : State, HasRoom P s → s.osc.gate = true → PitchInTable P s.osc →
    (s.osc.shape = .triangle →
      exec .oscRender s = .next (rendered P (waveSample P P.waveTri s.osc) s.osc.rng s.osc.auxPhase s)) ∧
    (s.osc.shape = .nesTriangle →
      exec .oscRender s = .next (rendered P (waveSample P P.waveNes s.osc) s.osc.rng s.osc.auxPhase s))

/-- R255, R263: with the gate open and the sine shape, a sample is re-sampled from the triangle bank where the
auxiliary accumulator wraps, and the last one is held elsewhere. -/
def Obligations.RenderSineHoldsBetweenAuxWraps : Prop :=
  let P := Config.params
  ∀ s : State, HasRoom P s → s.osc.gate = true → PitchInTable P s.osc → s.osc.shape = .sine →
    exec .oscRender s = .next (rendered P (heldSample P s.osc) s.osc.rng
      (BitVec.ofNat 16 (auxAfter P s.osc P.oscBlock)) s)

/-- R255, R265: with the gate open and an NES noise shape, the 15-bit register steps once per phase wrap with the
shape's tap, and every sample is one of the two levels; a step keeps a nonzero register nonzero and clears bit 15.
The register's width and taps the spec marks as general knowledge (assumption 9). -/
def Obligations.RenderNesNoiseHasTwoLevels : Prop :=
  let P := Config.params
  (∀ (tap : Nat) (r : Half), tap = 6 ∨ tap = 1 → r ≠ 0 →
    0 < nesStepNat tap r.toNat ∧ nesStepNat tap r.toNat < 2 ^ 15) ∧
  ∀ (tap : Nat) (s : State), HasRoom P s → s.osc.gate = true → PitchInTable P s.osc →
    s.osc.shape = .nesNoiseShort ∧ tap = 6 ∨ s.osc.shape = .nesNoiseLong ∧ tap = 1 →
    ∃ t, exec .oscRender s = .next t ∧
      t = rendered P (fun k => nesLevelOf (rngAfter (nesStepNat tap) P s.osc k))
        (BitVec.ofNat 16 (rngAfter (nesStepNat tap) P s.osc P.oscBlock)) s.osc.auxPhase s ∧
      ∀ v ∈ t.fifo.drop s.fifo.length, v = 0x0300 ∨ v = 0x0CFF

/-- R255, R266: with the gate open and the noise shape, the Galois register steps once per phase wrap, and every
sample lies in 512..3583; a step keeps a nonzero register nonzero. The step is R140's with its XOR on bit 0, which the
spec marks as general knowledge (G1, assumption 9). -/
def Obligations.RenderNoiseStaysInItsRange : Prop :=
  let P := Config.params
  (∀ r : Half, r ≠ 0 → galois r.toNat ≠ 0) ∧
  ∀ s : State, HasRoom P s → s.osc.gate = true → PitchInTable P s.osc → s.osc.shape = .noise →
    ∃ t, exec .oscRender s = .next t ∧
      t = rendered P (fun k => noiseLevelOf (rngAfter galois P s.osc k))
        (BitVec.ofNat 16 (rngAfter galois P s.osc P.oscBlock)) s.osc.auxPhase s ∧
      ∀ v ∈ t.fifo.drop s.fifo.length, 512 ≤ v.toNat ∧ v.toNat ≤ 3583

/-- R257, R86: the phase increment in closed form, for every parameter set and every pitch the table serves; the two
entries it reads are among the table's 97. -/
def Obligations.PhaseIncrementFoldsByOctaves : Prop :=
  ∀ (P : Params) (pitch : Half) (noise : Bool), pitch.toInt ≤ P.oscRefPitch.toInt + 1535 →
    (computePhaseIncrement P pitch noise).toNat = increment P pitch.toInt noise ∧
    P.oscRefPitch.toInt ≤ pitch.toInt + 1536 * octaves P pitch.toInt ∧
    pitch.toInt + 1536 * octaves P pitch.toInt ≤ P.oscRefPitch.toInt + 1535

/-- R259: one octave up doubles the increment to within one unit, for a pitched shape always and for a noise shape
unless the upper pitch is in the reference octave, where both pitches get the same increment.
A law the spec marks as its own derivation ("[derived: from rule R257]"). -/
def Obligations.OctaveUpDoublesTheIncrement : Prop :=
  ∀ (P : Params) (p q : Half) (noise : Bool), q.toInt = p.toInt + 1536 → q.toInt ≤ P.oscRefPitch.toInt + 1535 →
    let lower := (computePhaseIncrement P p noise).toNat
    let upper := (computePhaseIncrement P q noise).toNat
    if noise = true ∧ P.oscRefPitch.toInt ≤ q.toInt then upper = lower
    else upper = 2 * lower ∨ upper = 2 * lower + 1

/-- R261, R262: the interpolations in closed form; each lies between the two values it blends, a wavetable value between
its two entries and a zone value between its two wavetable values, so it is a u12. -/
def Obligations.InterpolationsStayBetween : Prop :=
  ∀ (bank : Fin 8 → Fin 257 → Sample) (note : Half) (ph : Phase24),
    (((zoneSample bank note ph).toNat : Int) = zoneAt bank note.toInt ph.toNat ∧
      let n := (min (max (note.toInt - 12) 0) 127).toNat
      let s0 := (waveInterp bank (Fin.ofNat 8 (n / 16)) ph).toNat
      let s1 := (waveInterp bank (Fin.ofNat 8 (min (n / 16 + 1) 7)) ph).toNat
      min s0 s1 ≤ (zoneSample bank note ph).toNat ∧ (zoneSample bank note ph).toNat ≤ max s0 s1) ∧
    ∀ z : Fin 8, ((waveInterp bank z ph).toNat : Int) = waveAt bank z.val ph.toNat ∧
      let a := (bank z (Fin.ofNat 257 (ph.toNat / 65536))).toNat
      let b := (bank z (Fin.ofNat 257 (ph.toNat / 65536 + 1))).toNat
      min a b ≤ (waveInterp bank z ph).toNat ∧ (waveInterp bank z ph).toNat ≤ max a b
end

