-- ==== Sys2Proof/Laws/Encoding.lean ====
section
/-! SUPPORT. The fields of a command word, put together and taken apart (spec/30_encoding.md R101), and the bytes of a
word (spec/20_memory.md R87). -/

namespace Sys2Proof.Laws

@[simp] theorem opcField_commandWord (opc b : Byte) (h : Half) : opcField (commandWord opc b h) = opc := by
  refine BitVec.eq_of_getLsbD_eq fun i hi => ?_
  simp only [opcField, commandWord, BitVec.getLsbD_extractLsb', BitVec.getLsbD_append]
  rw [if_neg (by omega), if_neg (by omega)]
  simp [hi, show 24 + i - 16 - 8 = i by omega]

@[simp] theorem bField_commandWord (opc b : Byte) (h : Half) : bField (commandWord opc b h) = b := by
  refine BitVec.eq_of_getLsbD_eq fun i hi => ?_
  simp only [bField, commandWord, BitVec.getLsbD_extractLsb', BitVec.getLsbD_append]
  rw [if_neg (by omega), if_pos (by omega)]
  simp [hi]

@[simp] theorem hField_commandWord (opc b : Byte) (h : Half) : hField (commandWord opc b h) = h := by
  refine BitVec.eq_of_getLsbD_eq fun i hi => ?_
  simp only [hField, commandWord, BitVec.getLsbD_extractLsb', BitVec.getLsbD_append]
  rw [if_pos (by omega)]
  simp [hi]

/-- A word is its three fields put together. -/
theorem commandWord_fields (w : Word) : commandWord (opcField w) (bField w) (hField w) = w := by
  ext i hi
  simp only [commandWord, opcField, bField, hField, ← BitVec.getLsbD_eq_getElem, BitVec.getLsbD_append,
    BitVec.getLsbD_extractLsb']
  split
  · simp_all
  · split
    · rw [decide_eq_true (by omega : i - 16 < 8), Bool.true_and]; congr 1; omega
    · rw [decide_eq_true (by omega : i - 16 - 8 < 8), Bool.true_and]; congr 1; omega

/-- The bytes of a word put together, byte 0 first, are the word (R87). -/
theorem wordOfBytes_wordByte (w : Word) :
    wordOfBytes (wordByte w 0) (wordByte w 1) (wordByte w 2) (wordByte w 3) = w := by
  ext i hi
  simp only [wordOfBytes, wordByte, ← BitVec.getLsbD_eq_getElem, BitVec.getLsbD_append, BitVec.getLsbD_extractLsb']
  split
  · simp_all
  · split
    · rw [decide_eq_true (by omega : i - 8 < 8), Bool.true_and]; congr 1; simp; omega
    · split
      · rw [decide_eq_true (by omega : i - 8 - 8 < 8), Bool.true_and]; congr 1; simp; omega
      · rw [decide_eq_true (by omega : i - 8 - 8 - 8 < 8), Bool.true_and]; congr 1; simp; omega

/-- What a successful decoding says: a row of R104, clear reserved bits, and the row's command (R105). -/
theorem decode_ok {w : Word} {i : Instr} (h : decode w = .ok i) :
    ∃ f build, opcodeRow (opcField w) = some (f, build) ∧ w &&& reservedMask f = 0 ∧ i = build (bField w) (hField w) := by
  unfold decode at h
  split at h
  · cases h
  · next f build hrow =>
    split at h
    · next hres => exact ⟨f, build, hrow, hres, by injection h with h; exact h.symm⟩
    · cases h

end Sys2Proof.Laws
end

