-- ==== Sys2Proof/Laws/Operands.lean ====
section
/-! SUPPORT. The shared arithmetic: three cells, the LFSR steps, interpolation. -/

namespace Sys2Proof.Laws

open Sys2Proof.Machine

@[simp] theorem get_ofFn {α : Type} (f : Fin 3 → α) (i : Fin 3) : (Triple.ofFn f).get i = f i := by
  match i with
  | 0 => rfl
  | 1 => rfl
  | 2 => rfl

@[simp] theorem get_set_same {α : Type} (t : Triple α) (i : Fin 3) (v : α) : (t.set i v).get i = v := by
  match i with
  | 0 => rfl
  | 1 => rfl
  | 2 => rfl

theorem get_set_other {α : Type} (t : Triple α) {i j : Fin 3} (v : α) (h : j ≠ i) : (t.set i v).get j = t.get j := by
  match i, j with
  | 0, 0 => exact absurd rfl h
  | 0, 1 => rfl
  | 0, 2 => rfl
  | 1, 0 => rfl
  | 1, 1 => exact absurd rfl h
  | 1, 2 => rfl
  | 2, 0 => rfl
  | 2, 1 => rfl
  | 2, 2 => exact absurd rfl h

theorem triple_ext {α : Type} {t u : Triple α} (h : ∀ i, t.get i = u.get i) : t = u := by
  cases t; cases u
  have h0 := h 0; have h1 := h 1; have h2 := h 2
  simp_all [Triple.get]

/-- A vector with every bit clear is 0. -/
theorem eq_zero_of_bits {w : Nat} {x : BitVec w} (h : ∀ k < w, x.getLsbD k = false) : x = 0#w :=
  BitVec.eq_of_getLsbD_eq fun k hk => by rw [h k hk, BitVec.getLsbD_zero]

/-- The Galois step keeps an LFSR state off 0 (R35, R144). -/
theorem galoisStep_ne_zero {x : Half} (h : x ≠ 0) : galoisStep x ≠ 0 := by
  intro hz
  unfold galoisStep at hz
  split at hz
  · have := congrArg (BitVec.getLsbD · 15) hz
    simp at this
  · next h0 =>
    refine h (eq_zero_of_bits fun k hk => ?_)
    match k with
    | 0 => simpa using h0
    | k + 1 =>
      have := congrArg (BitVec.getLsbD · k) hz
      simpa [Nat.add_comm] using this

/-- The NES step keeps the register off 0 (R265). -/
theorem nesStep_ne_zero {r : Half} {tap : Nat} (htap : 1 ≤ tap) (h : r ≠ 0) : nesStep tap r ≠ 0 := by
  intro hz
  have bits : ∀ k, k < 14 → r.getLsbD (k + 1) = false := by
    intro k hk
    have := congrArg (BitVec.getLsbD · k) hz
    simpa [nesStep, hk, Nat.add_comm] using this
  have bit14 : r.getLsbD 15 = false ∧ r.getLsbD 0 = r.getLsbD tap := by
    have := congrArg (BitVec.getLsbD · 14) hz
    simpa [nesStep] using this
  have high : ∀ k, 1 ≤ k → r.getLsbD k = false := by
    intro k hk
    obtain ⟨j, rfl⟩ : ∃ j, k = j + 1 := ⟨k - 1, by omega⟩
    rcases Nat.lt_or_ge j 14 with hj | hj
    · exact bits j hj
    · rcases Nat.lt_or_ge (j + 1) 16 with hj' | hj'
      · obtain rfl : j = 14 := by omega
        exact bit14.1
      · exact BitVec.getLsbD_of_ge _ _ hj'
  refine h (eq_zero_of_bits fun k _ => ?_)
  rcases Nat.eq_zero_or_pos k with rfl | hk
  · rw [bit14.2, high tap htap]
  · exact high k hk

theorem topByte_toNat (x : Half) : (topByte x).toNat = x.toNat / 256 := by
  have := x.isLt
  simp only [topByte, BitVec.extractLsb'_toNat, Nat.shiftRight_eq_div_pow]
  omega

/-- An interpolation with a weight below `2^k` stays between its ends (R257, R261, R262). -/
theorem lerp_between (a b : Int) {w k : Nat} (h : w < 2 ^ k) : min a b ≤ lerp a b w k ∧ lerp a b w k ≤ max a b := by
  unfold lerp asr
  have hk : (0 : Int) < 2 ^ k := by positivity
  have hw : (w : Int) < 2 ^ k := by exact_mod_cast h
  have hw0 : (0 : Int) ≤ w := Int.natCast_nonneg w
  rcases le_total a b with hab | hab
  · have h1 : 0 ≤ (b - a) * w / 2 ^ k := Int.ediv_nonneg (mul_nonneg (by omega) hw0) hk.le
    have h2 : (b - a) * w / 2 ^ k ≤ b - a := by
      apply Int.ediv_le_of_le_mul hk
      exact mul_le_mul_of_nonneg_left hw.le (by omega)
    rw [min_eq_left hab, max_eq_right hab]; omega
  · have h1 : b - a ≤ (b - a) * w / 2 ^ k := by
      apply Int.le_ediv_of_mul_le hk
      exact mul_le_mul_of_nonpos_left hw.le (by omega)
    have h2 : (b - a) * w / 2 ^ k ≤ 0 := by
      have := Int.ediv_le_ediv hk (mul_nonpos_of_nonpos_of_nonneg (by omega : b - a ≤ 0) hw0)
      simpa using this
    rw [min_eq_right hab, max_eq_left hab]; omega

end Sys2Proof.Laws
end

