-- ==== Sys2Proof/Laws/State.lean ====
section
/-! SUPPORT. What each named update does to each field of State: one lemma per field per update. -/

namespace Sys2Proof.Laws

open Sys2Proof.Machine

variable (s : State)

/-! ### `respond` -/

@[simp] theorem respond_resp (v : Word) : (respond v s).resp = v := rfl
@[simp] theorem respond_fault (v : Word) : (respond v s).fault = s.fault := rfl
@[simp] theorem respond_cause (v : Word) : (respond v s).cause = s.cause := rfl
@[simp] theorem respond_faultCmd (v : Word) : (respond v s).faultCmd = s.faultCmd := rfl
@[simp] theorem respond_fifo (v : Word) : (respond v s).fifo = s.fifo := rfl
@[simp] theorem respond_rnd (v : Word) : (respond v s).rnd = s.rnd := rfl
@[simp] theorem respond_clk (v : Word) : (respond v s).clk = s.clk := rfl
@[simp] theorem respond_pg (v : Word) : (respond v s).pg = s.pg := rfl
@[simp] theorem respond_osc (v : Word) : (respond v s).osc = s.osc := rfl
@[simp] theorem respond_host (v : Word) : (respond v s).host = s.host := rfl

/-! ### `setRnd` -/

@[simp] theorem setRnd_resp (v : Half) : (setRnd v s).resp = s.resp := rfl
@[simp] theorem setRnd_fault (v : Half) : (setRnd v s).fault = s.fault := rfl
@[simp] theorem setRnd_cause (v : Half) : (setRnd v s).cause = s.cause := rfl
@[simp] theorem setRnd_faultCmd (v : Half) : (setRnd v s).faultCmd = s.faultCmd := rfl
@[simp] theorem setRnd_fifo (v : Half) : (setRnd v s).fifo = s.fifo := rfl
@[simp] theorem setRnd_rnd (v : Half) : (setRnd v s).rnd = v := rfl
@[simp] theorem setRnd_clk (v : Half) : (setRnd v s).clk = s.clk := rfl
@[simp] theorem setRnd_pg (v : Half) : (setRnd v s).pg = s.pg := rfl
@[simp] theorem setRnd_osc (v : Half) : (setRnd v s).osc = s.osc := rfl
@[simp] theorem setRnd_host (v : Half) : (setRnd v s).host = s.host := rfl

/-! ### `setClk` -/

@[simp] theorem setClk_resp (c : Clk) : (setClk c s).resp = s.resp := rfl
@[simp] theorem setClk_fault (c : Clk) : (setClk c s).fault = s.fault := rfl
@[simp] theorem setClk_cause (c : Clk) : (setClk c s).cause = s.cause := rfl
@[simp] theorem setClk_faultCmd (c : Clk) : (setClk c s).faultCmd = s.faultCmd := rfl
@[simp] theorem setClk_fifo (c : Clk) : (setClk c s).fifo = s.fifo := rfl
@[simp] theorem setClk_rnd (c : Clk) : (setClk c s).rnd = s.rnd := rfl
@[simp] theorem setClk_clk (c : Clk) : (setClk c s).clk = c := rfl
@[simp] theorem setClk_pg (c : Clk) : (setClk c s).pg = s.pg := rfl
@[simp] theorem setClk_osc (c : Clk) : (setClk c s).osc = s.osc := rfl
@[simp] theorem setClk_host (c : Clk) : (setClk c s).host = s.host := rfl

/-! ### `setPg` -/

@[simp] theorem setPg_resp (p : Pg) : (setPg p s).resp = s.resp := rfl
@[simp] theorem setPg_fault (p : Pg) : (setPg p s).fault = s.fault := rfl
@[simp] theorem setPg_cause (p : Pg) : (setPg p s).cause = s.cause := rfl
@[simp] theorem setPg_faultCmd (p : Pg) : (setPg p s).faultCmd = s.faultCmd := rfl
@[simp] theorem setPg_fifo (p : Pg) : (setPg p s).fifo = s.fifo := rfl
@[simp] theorem setPg_rnd (p : Pg) : (setPg p s).rnd = s.rnd := rfl
@[simp] theorem setPg_clk (p : Pg) : (setPg p s).clk = s.clk := rfl
@[simp] theorem setPg_pg (p : Pg) : (setPg p s).pg = p := rfl
@[simp] theorem setPg_osc (p : Pg) : (setPg p s).osc = s.osc := rfl
@[simp] theorem setPg_host (p : Pg) : (setPg p s).host = s.host := rfl

/-! ### `setOsc` -/

@[simp] theorem setOsc_resp (o : Osc) : (setOsc o s).resp = s.resp := rfl
@[simp] theorem setOsc_fault (o : Osc) : (setOsc o s).fault = s.fault := rfl
@[simp] theorem setOsc_cause (o : Osc) : (setOsc o s).cause = s.cause := rfl
@[simp] theorem setOsc_faultCmd (o : Osc) : (setOsc o s).faultCmd = s.faultCmd := rfl
@[simp] theorem setOsc_fifo (o : Osc) : (setOsc o s).fifo = s.fifo := rfl
@[simp] theorem setOsc_rnd (o : Osc) : (setOsc o s).rnd = s.rnd := rfl
@[simp] theorem setOsc_clk (o : Osc) : (setOsc o s).clk = s.clk := rfl
@[simp] theorem setOsc_pg (o : Osc) : (setOsc o s).pg = s.pg := rfl
@[simp] theorem setOsc_osc (o : Osc) : (setOsc o s).osc = o := rfl
@[simp] theorem setOsc_host (o : Osc) : (setOsc o s).host = s.host := rfl

/-! ### `emit` -/

@[simp] theorem emit_resp (v : Sample) : (emit v s).resp = s.resp := rfl
@[simp] theorem emit_fault (v : Sample) : (emit v s).fault = s.fault := rfl
@[simp] theorem emit_cause (v : Sample) : (emit v s).cause = s.cause := rfl
@[simp] theorem emit_faultCmd (v : Sample) : (emit v s).faultCmd = s.faultCmd := rfl
@[simp] theorem emit_fifo (v : Sample) : (emit v s).fifo = s.fifo ++ [v] := rfl
@[simp] theorem emit_rnd (v : Sample) : (emit v s).rnd = s.rnd := rfl
@[simp] theorem emit_clk (v : Sample) : (emit v s).clk = s.clk := rfl
@[simp] theorem emit_pg (v : Sample) : (emit v s).pg = s.pg := rfl
@[simp] theorem emit_osc (v : Sample) : (emit v s).osc = s.osc := rfl
@[simp] theorem emit_host (v : Sample) : (emit v s).host = s.host := rfl

/-! ### `setHost` -/

@[simp] theorem setHost_resp (h : List HostAction) : (setHost h s).resp = s.resp := rfl
@[simp] theorem setHost_fault (h : List HostAction) : (setHost h s).fault = s.fault := rfl
@[simp] theorem setHost_cause (h : List HostAction) : (setHost h s).cause = s.cause := rfl
@[simp] theorem setHost_faultCmd (h : List HostAction) : (setHost h s).faultCmd = s.faultCmd := rfl
@[simp] theorem setHost_fifo (h : List HostAction) : (setHost h s).fifo = s.fifo := rfl
@[simp] theorem setHost_rnd (h : List HostAction) : (setHost h s).rnd = s.rnd := rfl
@[simp] theorem setHost_clk (h : List HostAction) : (setHost h s).clk = s.clk := rfl
@[simp] theorem setHost_pg (h : List HostAction) : (setHost h s).pg = s.pg := rfl
@[simp] theorem setHost_osc (h : List HostAction) : (setHost h s).osc = s.osc := rfl
@[simp] theorem setHost_host (h : List HostAction) : (setHost h s).host = h := rfl

/-! ### `raise` -/

@[simp] theorem raise_resp (c : Cause) (cmd : Word) : (raise c cmd s).resp = s.resp := rfl
@[simp] theorem raise_fault (c : Cause) (cmd : Word) : (raise c cmd s).fault = true := rfl
@[simp] theorem raise_cause (c : Cause) (cmd : Word) : (raise c cmd s).cause = causeCode c := rfl
@[simp] theorem raise_faultCmd (c : Cause) (cmd : Word) : (raise c cmd s).faultCmd = cmd := rfl
@[simp] theorem raise_fifo (c : Cause) (cmd : Word) : (raise c cmd s).fifo = s.fifo := rfl
@[simp] theorem raise_rnd (c : Cause) (cmd : Word) : (raise c cmd s).rnd = s.rnd := rfl
@[simp] theorem raise_clk (c : Cause) (cmd : Word) : (raise c cmd s).clk = s.clk := rfl
@[simp] theorem raise_pg (c : Cause) (cmd : Word) : (raise c cmd s).pg = s.pg := rfl
@[simp] theorem raise_osc (c : Cause) (cmd : Word) : (raise c cmd s).osc = s.osc := rfl
@[simp] theorem raise_host (c : Cause) (cmd : Word) : (raise c cmd s).host = s.host := rfl

/-! ### `resetCore` -/

@[simp] theorem resetCore_resp (P : Params) : (resetCore P s).resp = (resetWith P).resp := rfl
@[simp] theorem resetCore_fault (P : Params) : (resetCore P s).fault = (resetWith P).fault := rfl
@[simp] theorem resetCore_cause (P : Params) : (resetCore P s).cause = (resetWith P).cause := rfl
@[simp] theorem resetCore_faultCmd (P : Params) : (resetCore P s).faultCmd = (resetWith P).faultCmd := rfl
@[simp] theorem resetCore_fifo (P : Params) : (resetCore P s).fifo = (resetWith P).fifo := rfl
@[simp] theorem resetCore_rnd (P : Params) : (resetCore P s).rnd = (resetWith P).rnd := rfl
@[simp] theorem resetCore_clk (P : Params) : (resetCore P s).clk = (resetWith P).clk := rfl
@[simp] theorem resetCore_pg (P : Params) : (resetCore P s).pg = (resetWith P).pg := rfl
@[simp] theorem resetCore_osc (P : Params) : (resetCore P s).osc = (resetWith P).osc := rfl
@[simp] theorem resetCore_host (P : Params) : (resetCore P s).host = s.host := rfl

end Sys2Proof.Laws
end

