-- ==== Sys2Proof/Laws/Oscillator.lean ====
section
/-! SUPPORT. The parts of OSC_RENDER (spec/43_oscillator.md R255 to R266): the octave fold, the interpolations and the
sample loop. -/

namespace Sys2Proof.Laws

open Sys2Proof.Machine

/-- R257's loop with enough fuel, for a pitch at most an octave's span above the reference: it folds by the fewest
octaves that reach the reference. -/
theorem foldUp_spec (ref : Int) (fuel : Nat) (q : Int) (n : Nat) (hfuel : ref ≤ q + 1536 * fuel) :
    ∃ k : Nat, foldUp ref fuel q n = (q + 1536 * k, n + k) ∧ ref ≤ q + 1536 * k ∧
      (k ≠ 0 → q + 1536 * k < ref + 1536) := by
  induction fuel generalizing q n with
  | zero => exact ⟨0, by simp [foldUp], by simpa using hfuel, by simp⟩
  | succ fuel ih =>
    unfold foldUp
    split
    · next hlt =>
      obtain ⟨k, hk, hge, hle⟩ := ih (q + 1536) (n + 1) (by push_cast at hfuel; omega)
      refine ⟨k + 1, ?_, by push_cast; omega, fun _ => ?_⟩
      · rw [hk]; push_cast; congr 1 <;> omega
      · rcases Nat.eq_zero_or_pos k with rfl | hk0
        · push_cast; omega
        · have := hle (by omega); push_cast; omega
    · next hge => exact ⟨0, by simp, by simpa using hge, by simp⟩

/-- The fuel is enough for every pitch and every reference. -/
theorem foldFuel_enough (ref pitch : Half) : pitchValue ref ≤ pitchValue pitch + 1536 * (foldFuel : Nat) := by
  have h1 := BitVec.toInt_lt (x := ref)
  have h2 := BitVec.le_toInt pitch
  simp only [pitchValue, foldFuel]; push_cast; omega

/-- A u12 built from an integer between two samples is that integer. -/
theorem ofInt_sample {v : Int} {a b : Nat} (ha : a < 4096) (hb : b < 4096)
    (h : min (a : Int) b ≤ v ∧ v ≤ max (a : Int) b) : ((BitVec.ofInt 12 v).toNat : Int) = v := by
  rw [BitVec.toNat_ofInt]
  omega

/-- The sample loop: the oscillator after the samples, their values appended to the FIFO, and nothing else. -/
theorem renderSamples_eq (next : Osc → Osc) (n : Nat) (s : State) :
    renderSamples next n s =
      { s with
        fifo := s.fifo ++ (List.range n).map fun k => (next^[k + 1] s.osc).sample
        osc := next^[n] s.osc } := by
  induction n generalizing s with
  | zero => simp [renderSamples]
  | succ n ih =>
    rw [renderSamples, ih]
    simp only [emit, setOsc, List.range_succ_eq_map, List.map_cons, List.map_map, List.append_assoc]
    congr 1

/-- A render's loop emits as many samples as told. -/
theorem renderSamples_fifo_length (next : Osc → Osc) (n : Nat) (s : State) :
    (renderSamples next n s).fifo.length = s.fifo.length + n := by
  rw [renderSamples_eq]; simp

/-- No sample of a render touches the settings: the shape, gate, pitch, note, pulse width, increment and dirty flag. -/
theorem shapeSample_settings (P : Params) (shape : Shape) (o : Osc) :
    (shapeSample P shape o).shape = o.shape ∧ (shapeSample P shape o).gate = o.gate ∧
    (shapeSample P shape o).pitch = o.pitch ∧ (shapeSample P shape o).note = o.note ∧
    (shapeSample P shape o).cvPw = o.cvPw ∧ (shapeSample P shape o).phaseIncrement = o.phaseIncrement ∧
    (shapeSample P shape o).dirty = o.dirty := by
  cases shape <;> exact ⟨rfl, rfl, rfl, rfl, rfl, rfl, rfl⟩

/-- Every sample of a shape's render advances the phase once (R260). -/
theorem shapeSample_phase (P : Params) (shape : Shape) (o : Osc) :
    (shapeSample P shape o).phase = BitVec.ofNat 24 (o.phase.toNat + o.phaseIncrement.toNat) := by
  cases shape <;> rfl

/-- No sample of a render takes the noise register to 0 (R52). -/
theorem shapeSample_rng_ne (P : Params) (shape : Shape) (o : Osc) (h : o.rng ≠ 0) :
    (shapeSample P shape o).rng ≠ 0 := by
  cases shape with
  | sine => exact h
  | triangle => exact h
  | nesTriangle => exact h
  | nesNoiseShort =>
    simp only [shapeSample, nesNoiseSample, clockedRng]; split
    · exact nesStep_ne_zero (by decide) h
    · exact h
  | nesNoiseLong =>
    simp only [shapeSample, nesNoiseSample, clockedRng]; split
    · exact nesStep_ne_zero (by decide) h
    · exact h
  | noise =>
    simp only [shapeSample, noiseSample, clockedRng]; split
    · exact galoisStep_ne_zero h
    · exact h

end Sys2Proof.Laws
end

