-- ==== Sys2Proof/Laws/Pattern.lean ====
section
/-! SUPPORT. The parts of PG_TICK (spec/42_pattern.md R192 to R206): what each of them can change, once. -/

namespace Sys2Proof.Laws

open Sys2Proof.Machine

/-- R192's loop in closed form: as many steps as the total holds threes, and the rest is the pulse. -/
theorem advancePulses_eq (total : Nat) (pg : Pg) :
    advancePulses total pg = { advanceStep^[total / 3] pg with pulse := BitVec.ofNat 8 (total % 3) } := by
  induction total, pg using advancePulses.induct with
  | case1 total pg ih =>
    rw [advancePulses, ih, show (total + 3) / 3 = total / 3 + 1 by omega, show (total + 3) % 3 = total % 3 by omega,
      Function.iterate_succ_apply]
  | case2 total pg h =>
    have hlt : total < 3 := by
      rcases Nat.lt_or_ge total 3 with hl | hg
      · exact hl
      · exact absurd (show total = (total - 3) + 3 by omega) (h (total - 3))
    rw [advancePulses.eq_2 total pg h, show total / 3 = 0 by omega, show total % 3 = total by omega]
    rfl

/-- Steps move the position and the Euclidean steps, and nothing else (R192). -/
theorem advanceSteps_frame (k : Nat) (pg : Pg) :
    advanceStep^[k] pg =
      { pg with step := (advanceStep^[k] pg).step, euclideanStep := (advanceStep^[k] pg).euclideanStep } := by
  induction k generalizing pg with
  | zero => rfl
  | succ k ih => rw [Function.iterate_succ_apply, ih (advanceStep pg)]; rfl

theorem advanceSteps_step (k : Nat) (pg : Pg) :
    (advanceStep^[k] pg).step = BitVec.ofNat 5 (pg.step.toNat + k) := by
  induction k with
  | zero => simp
  | succ k ih =>
    rw [Function.iterate_succ_apply']
    simp only [advanceStep, ih]
    apply BitVec.eq_of_toNat_eq
    simp [BitVec.toNat_add]
    omega

/-- Each Euclidean step goes up by one for each even step left, modulo 256 (R192). -/
theorem advanceSteps_euclideanStep (k : Nat) (pg : Pg) (i : Fin 3) :
    ((advanceStep^[k] pg).euclideanStep.get i).toNat =
      ((pg.euclideanStep.get i).toNat + (if pg.step.toNat % 2 = 0 then (k + 1) / 2 else k / 2)) % 256 := by
  induction k with
  | zero =>
    have := (pg.euclideanStep.get i).isLt
    simp only [Function.iterate_zero, id]
    split <;> omega
  | succ k ih =>
    have hstep := advanceSteps_step k pg
    rw [Function.iterate_succ_apply']
    have hpar : (advanceStep^[k] pg).step.getLsbD 0 = decide ((pg.step.toNat + k) % 2 = 1) := by
      rw [hstep, BitVec.getLsbD_ofNat, Nat.testBit_zero]; simp
    simp only [advanceStep, hpar]
    by_cases hp : (pg.step.toNat + k) % 2 = 1
    · rw [if_pos (by simpa using hp), ih]
      split <;> omega
    · rw [if_neg (by simpa using hp), get_ofFn, BitVec.toNat_add, ih]
      split <;> simp <;> omega

/-- The Drums body writes the perturbations and the state, and nothing else (R198). -/
theorem evaluateDrums_frame (P : Params) (rnd : Half) (pg : Pg) :
    evaluateDrums P rnd pg =
      { pg with
        partPerturbation := (drawPerturbations rnd pg).partPerturbation
        state := (evaluateDrums P rnd pg).state } := by
  simp only [evaluateDrums, writeDrums, drawPerturbations]
  split <;> rfl

/-- The Euclidean body writes the Euclidean steps and the state, and nothing else (R204). -/
theorem evaluateEuclidean_frame (P : Params) (pg : Pg) :
    evaluateEuclidean P pg =
      { pg with
        euclideanStep := Triple.ofFn fun i => BitVec.ofNat 8 (euclideanPosition pg i)
        state := (evaluateEuclidean P pg).state } := rfl

/-- EvaluateBody does one of three things (R196): nothing, the Drums body, or the Euclidean body. -/
theorem evaluateBody_cases (P : Params) (rnd : Half) (pg : Pg) :
    (pg.pulse = 0 ∧ pg.options.outputMode = .drums ∧ evaluateBody P rnd pg = evaluateDrums P rnd pg) ∨
    (pg.pulse = 0 ∧ pg.options.outputMode = .euclidean ∧ pg.step.getLsbD 0 = false ∧
      evaluateBody P rnd pg = evaluateEuclidean P pg) ∨
    ((pg.pulse ≠ 0 ∨ (pg.options.outputMode = .euclidean ∧ pg.step.getLsbD 0 = true)) ∧
      evaluateBody P rnd pg = pg) := by
  unfold evaluateBody
  split
  · next h => exact .inr (.inr ⟨.inl h, rfl⟩)
  · next h =>
    have h0 : pg.pulse = 0 := not_not.mp h
    split
    · next hm => exact .inl ⟨h0, hm, rfl⟩
    · next hm =>
      split
      · next hs => exact .inr (.inr ⟨.inr ⟨hm, hs⟩, rfl⟩)
      · next hs => exact .inr (.inl ⟨h0, hm, by simpa using hs, rfl⟩)

/-- A perturbation drawn is at most 62 (R199). -/
theorem perturbation_le (rnd : Half) (randomness : Byte) : (perturbation rnd randomness).toNat ≤ 62 := by
  have hg := (topByte rnd).isLt
  have hr := randomness.isLt
  have h1 : randomness.toNat >>> 2 ≤ 63 := by rw [Nat.shiftRight_eq_div_pow]; omega
  have h2 : (topByte rnd).toNat * (randomness.toNat >>> 2) ≤ 255 * 63 := Nat.mul_le_mul (by omega) h1
  simp only [perturbation, BitVec.toNat_ofNat]
  rw [Nat.shiftRight_eq_div_pow]
  omega

/-! The bits of the pattern state (R48, R194, R202, R206). -/

theorem refreshTopBits_low (rnd : Half) (st : Byte) {k : Nat} (hk : k < 6) :
    (refreshTopBits rnd st).getLsbD k = st.getLsbD k := by
  simp only [refreshTopBits, BitVec.getLsbD_append, BitVec.getLsbD_extractLsb']
  rw [if_pos hk, decide_eq_true hk, Bool.true_and, Nat.zero_add]

theorem refreshTopBits_clock (rnd : Half) (st : Byte) : (refreshTopBits rnd st).getLsbD 6 = !st.getLsbD 6 := by
  simp only [refreshTopBits, BitVec.getLsbD_append]
  rw [if_neg (by decide), if_pos (by decide), Nat.sub_self, BitVec.getLsbD_ofBool]
  simp

theorem refreshTopBits_random (rnd : Half) (st : Byte) : (refreshTopBits rnd st).getLsbD 7 = rnd.getLsbD 15 := by
  simp only [refreshTopBits, BitVec.getLsbD_append]
  rw [if_neg (by decide), if_neg (by decide), BitVec.getLsbD_ofBool]
  simp

/-- `writeLowBits` bit by bit: the triggers, the three mode bits, and the top bits kept. -/
theorem writeLowBits_bits (st : Byte) (b5 b4 b3 : Bool) (trig : Triple Bool) :
    (∀ i : Fin 3, (writeLowBits st b5 b4 b3 trig).getLsbD i.val = trig.get i) ∧
    (writeLowBits st b5 b4 b3 trig).getLsbD 3 = b3 ∧ (writeLowBits st b5 b4 b3 trig).getLsbD 4 = b4 ∧
    (writeLowBits st b5 b4 b3 trig).getLsbD 5 = b5 ∧
    (writeLowBits st b5 b4 b3 trig).getLsbD 6 = st.getLsbD 6 ∧
    (writeLowBits st b5 b4 b3 trig).getLsbD 7 = st.getLsbD 7 := by
  obtain ⟨t0, t1, t2⟩ := trig
  refine ⟨fun i => ?_, ?_, ?_, ?_, ?_, ?_⟩
  · match i with
    | 0 => simp only [writeLowBits, BitVec.getLsbD_append, BitVec.getLsbD_ofBool]; rfl
    | 1 => simp only [writeLowBits, BitVec.getLsbD_append, BitVec.getLsbD_ofBool]; rfl
    | 2 => simp only [writeLowBits, BitVec.getLsbD_append, BitVec.getLsbD_ofBool]; rfl
  all_goals
    simp only [writeLowBits, BitVec.getLsbD_append, BitVec.getLsbD_ofBool, BitVec.getLsbD_extractLsb']; rfl

end Sys2Proof.Laws
end

