-- ==== Sys2Proof/Laws/PerInstr.lean ====
section
/-! SUPPORT. The family `InRange`: every operand of every command lies in its field's range (spec/30_encoding.md
R106), because an `Instr` holds each operand in its field's width. -/

namespace Sys2Proof.Laws

/-- A u8 field is in range. -/
theorem inRange_u8 (v : Byte) : (Operand.mk .u8 v.toNat).inRange = true := by
  have := v.isLt
  simp only [Operand.inRange, decide_eq_true_eq]; omega

/-- A u16 field is in range. -/
theorem inRange_u16 (v : Half) : (Operand.mk .u16 v.toNat).inRange = true := by
  have := v.isLt
  simp only [Operand.inRange, decide_eq_true_eq]; omega

/-- An s8 field is in range. -/
theorem inRange_s8 (v : Byte) : (Operand.mk .s8 v.toInt).inRange = true := by
  have h1 := BitVec.le_toInt v
  have h2 := BitVec.toInt_lt (x := v)
  simp only [Operand.inRange, decide_eq_true_eq]; omega

/-- An s16 field is in range. -/
theorem inRange_s16 (v : Half) : (Operand.mk .s16 v.toInt).inRange = true := by
  have h1 := BitVec.le_toInt v
  have h2 := BitVec.toInt_lt (x := v)
  simp only [Operand.inRange, decide_eq_true_eq]; omega

/-- One operand in range. -/
theorem all_one {o : Operand} (h : o.inRange = true) : [o].all Operand.inRange = true := by
  rw [List.all_cons, h, List.all_nil]; rfl

/-- Two operands in range. -/
theorem all_two {o p : Operand} (ho : o.inRange = true) (hp : p.inRange = true) :
    [o, p].all Operand.inRange = true := by
  rw [List.all_cons, ho, all_one hp]; rfl

end Sys2Proof.Laws

namespace Sys2Proof.Laws.InRange

open Sys2Proof.Laws

/-- The command is well formed. -/
def Statement (i : Instr) : Prop := i.wellFormed = true

theorem read (reg : Byte) : Statement (.read reg) := all_one (inRange_u8 reg)
theorem rndUpdate : Statement .rndUpdate := rfl
theorem rndSeed (v : Half) : Statement (.rndSeed v) := all_one (inRange_u16 v)
theorem rndState : Statement .rndState := rfl
theorem rndByte : Statement .rndByte := rfl
theorem clkInit : Statement .clkInit := rfl
theorem clkUpdate (res : Byte) (bpm : Half) : Statement (.clkUpdate res bpm) :=
  all_two (inRange_u8 res) (inRange_u16 bpm)
theorem clkTick : Statement .clkTick := rfl
theorem clkWrap (amount : Byte) : Statement (.clkWrap amount) := all_one (inRange_s8 amount)
theorem clkReset : Statement .clkReset := rfl
theorem clkLock : Statement .clkLock := rfl
theorem clkUnlock : Statement .clkUnlock := rfl
theorem clkRising : Statement .clkRising := rfl
theorem clkFallen : Statement .clkFallen := rfl
theorem clkLocked : Statement .clkLocked := rfl
theorem pgInit : Statement .pgInit := rfl
theorem pgReset : Statement .pgReset := rfl
theorem pgTick (n : Byte) : Statement (.pgTick n) := all_one (inRange_u8 n)
theorem pgSet (idx v : Byte) : Statement (.pgSet idx v) :=
  all_two (inRange_u8 idx) (inRange_u8 v)
theorem pgState : Statement .pgState := rfl
theorem pgStep : Statement .pgStep := rfl
theorem oscInit : Statement .oscInit := rfl
theorem oscSetPitch (p : Half) : Statement (.oscSetPitch p) := all_one (inRange_s16 p)
theorem oscSetShape (shape : Byte) : Statement (.oscSetShape shape) := all_one (inRange_u8 shape)
theorem oscSetGate (g : Byte) : Statement (.oscSetGate g) := all_one (inRange_u8 g)
theorem oscSetPw (w : Byte) : Statement (.oscSetPw w) := all_one (inRange_u8 w)
theorem oscRender : Statement .oscRender := rfl

end Sys2Proof.Laws.InRange
end

