-- ==== Sys2Proof/Laws/Step.lean ====
section
/-! SUPPORT. What performing a command, a host action and a step can do: one inversion lemma each. -/

namespace Sys2Proof.Laws

open Sys2Proof.Machine

/-- Every command answers a next state: the CORE's own faults are states with the latch set (R290, R291). -/
theorem exec_answers_next (i : Instr) (s : State) : ∃ t, exec i s = .next t := by
  cases i <;> exact ⟨_, rfl⟩

/-- A word at the command port is ignored, faults at decoding, or is performed (R100, R105, R103, R295). -/
theorem performWord_cases {w : Word} {s : State} {out : Host.Outcome State Fault Refusal}
    (h : performWord w s = out) :
    (s.fault = true ∧ out = .next s) ∨
    (s.fault = false ∧ decode w = .error .illegalOpcode ∧ out = .next (raise .illegalOpcode w s)) ∨
    (s.fault = false ∧ decode w = .error .reservedField ∧ out = .next (raise .reservedField w s)) ∨
    (∃ i, s.fault = false ∧ decode w = .ok i ∧ out = exec i s) := by
  unfold performWord at h
  split at h
  · next hf => exact .inl ⟨hf, h.symm⟩
  · next hf =>
    have hf' : s.fault = false := by simpa using hf
    split at h
    · next hd => exact .inr (.inl ⟨hf', hd, h.symm⟩)
    · next hd => exact .inr (.inr (.inl ⟨hf', hd, h.symm⟩))
    · next i hd => exact .inr (.inr (.inr ⟨i, hf', hd, h.symm⟩))

/-- Performing a word always answers a next state. -/
theorem performWord_answers_next (w : Word) (s : State) : ∃ t, performWord w s = .next t := by
  rcases performWord_cases (w := w) (s := s) rfl with ⟨_, h⟩ | ⟨_, _, h⟩ | ⟨_, _, h⟩ | ⟨i, _, _, h⟩
  · exact ⟨_, h⟩
  · exact ⟨_, h⟩
  · exact ⟨_, h⟩
  · obtain ⟨t, ht⟩ := exec_answers_next i s
    exact ⟨t, h.trans ht⟩

/-- A removal takes the head of the FIFO, or stops on an empty one (R88). -/
theorem removeSample_cases {s t : State} (h : removeSample s = .next t) :
    ∃ v rest, s.fifo = v :: rest ∧ t = { s with fifo := rest } := by
  unfold removeSample at h
  split at h
  · cases h
  · next v rest hf => exact ⟨v, rest, hf, by injection h with h; exact h.symm⟩

/-- Every next state of a step: the idle CORE, a performed word, a port read, a removal or a reset (R92, R304). -/
theorem step_cases {s t : State} (h : step s = .next t) :
    (s.host = [] ∧ t = s) ∨
    (∃ w rest, s.host = .command w :: rest ∧ performWord w (setHost rest s) = .next t) ∨
    (∃ p rest, s.host = .readPort p :: rest ∧ t = setHost rest s) ∨
    (∃ v fifo rest, s.host = .removeSample :: rest ∧ s.fifo = v :: fifo ∧
      t = { setHost rest s with fifo := fifo }) ∨
    (∃ rest, s.host = .reset :: rest ∧ t = resetCore Config.params (setHost rest s)) := by
  unfold step hostStep at h
  split at h
  · next hh => exact .inl ⟨hh, by injection h with h; exact h.symm⟩
  · next a rest hh =>
    cases a with
    | command w => exact .inr (.inl ⟨w, rest, hh, h⟩)
    | readPort p =>
      simp only [takeAction, Host.Outcome.next.injEq] at h
      exact .inr (.inr (.inl ⟨p, rest, hh, h.symm⟩))
    | removeSample =>
      obtain ⟨v, fifo, hf, ht⟩ := removeSample_cases (s := setHost rest s) h
      exact .inr (.inr (.inr (.inl ⟨v, fifo, rest, hh, hf, ht⟩)))
    | reset =>
      simp only [takeAction, Host.Outcome.next.injEq] at h
      exact .inr (.inr (.inr (.inr ⟨rest, hh, h.symm⟩)))

/-- A step stops only where the host removes a sample from an empty FIFO. -/
theorem step_fault {s : State} {r : Fault} (h : step s = .fault r) :
    ∃ rest, s.host = .removeSample :: rest ∧ s.fifo = [] := by
  unfold step hostStep at h
  split at h
  · cases h
  · next a rest hh =>
    cases a with
    | command w =>
      obtain ⟨t, ht⟩ := performWord_answers_next w (setHost rest s)
      rw [takeAction, ht] at h; cases h
    | readPort p => cases h
    | removeSample =>
      simp only [takeAction, removeSample, setHost] at h
      split at h
      · next hf => exact ⟨rest, hh, hf⟩
      · cases h
    | reset => cases h

/-- A word stored by `withFetchWord` is the next step's (R100). -/
theorem step_withFetchWord (s : State) (nbits w : Nat) :
    step (s.withFetchWord nbits w) = performWord (tableWord nbits w) s := rfl

/-- With a FIFO within its depth, the entries and the free places make the depth (R58). -/
theorem fifoFree_add_length {P : Params} {s : State} (h : s.fifo.length ≤ P.fifoDepth) :
    fifoFree P s + s.fifo.length = P.fifoDepth := by
  unfold fifoFree; omega

end Sys2Proof.Laws
end

