-- ==== Sys2Proof/Tests/TestConfig.lean ====
section
/-! SUPPORT. The test configuration of spec/95_test_vectors.md part 2: one legal parameter set, which shows that the
constraints of R8 can be met together and lets the tests run the spec's own vectors. The machine does not use it. -/

namespace Sys2Proof.Tests

open Sys2Proof.Machine

/-- `PPQN = [4, 8, 24]` (spec/95_test_vectors.md part 2). -/
def ppqn (res : BitVec 2) : Nat :=
  match res.toNat with
  | 0 => 4
  | 1 => 8
  | _ => 24

/-- `floor(b * PPQN[r] * 2^31 / 23040)`. -/
def testIncrement (bpm : Half) (res : BitVec 2) : Nat := bpm.toNat * ppqn res * 2 ^ 31 / 23040

theorem ppqn_bounds (res : BitVec 2) : 4 ≤ ppqn res ∧ ppqn res ≤ 24 := by
  unfold ppqn
  split <;> omega

theorem testIncrement_bounds (bpm : Half) (res : BitVec 2) (h1 : 30#16 ≤ bpm) (h2 : bpm ≤ 480#16) :
    1 ≤ testIncrement bpm res ∧ testIncrement bpm res < 2 ^ 31 := by
  have hl : 30 ≤ bpm.toNat := h1
  have hu : bpm.toNat ≤ 480 := h2
  obtain ⟨pl, pu⟩ := ppqn_bounds res
  have lower : 120 ≤ bpm.toNat * ppqn res := Nat.mul_le_mul hl pl
  have upper : bpm.toNat * ppqn res ≤ 11520 := Nat.mul_le_mul hu pu
  unfold testIncrement
  omega

/-- The word of the test table for length index `n / 32` and density `n % 32`: bit `k` is 1 iff
`floor((k+1)*d / L) > floor(k*d / L)`. -/
def testEuclidWord (n : Nat) : Word :=
  let len := n / 32 + 1
  let d := n % 32
  (List.range len).foldl (fun w k => if k * d / len < (k + 1) * d / len then w ||| (1#32 <<< k) else w) 0#32

/-- The parameters of spec/95_test_vectors.md part 2. -/
def testParams : Params where
  oscBlock := 4
  fifoDepth := 8
  clockIncrement bpm res := BitVec.ofNat 32 (testIncrement bpm res)
  clkBpmMin := 30
  clkBpmMax := 480
  clkInitBpm := 120
  clkInitRes := 2
  rndSeedReset := 0xACE1
  oscRngReset := 0x4A3B
  oscShapeReset := .triangle
  oscPitchReset := 7680
  oscRefPitch := 12288
  oscPitchMin := 0
  oscPitchMax := 13823
  pgSettingsReset k := [128, 128, 0, 200, 200, 200, 0xCA].getD k.val 0
  pgClkmodeBit4 := .zero
  drumMap m o := BitVec.ofNat 8 (13 * m.val + 29 * o.val)
  euclidLut n := testEuclidWord n.val
  waveTri z k :=
    BitVec.ofNat 12 (((4095 - 32 * ((k.val : Int) - 128).natAbs) * (16 - z.val)) / 16)
  waveNes z k := BitVec.ofNat 12 ((16 * k.val % 4096) / 2 ^ (z.val % 2))
  oscIncTable i := BitVec.ofNat 24 (0x400000 + 43691 * i.val)
  auxIncTable w := BitVec.ofNat 16 (256 * w.toNat)
  clockIncrement_legal bpm res h1 h2 _ := by
    obtain ⟨hl, hu⟩ := testIncrement_bounds bpm res h1 h2
    rw [BitVec.toNat_ofNat, Nat.mod_eq_of_lt (by omega)]
    exact ⟨hl, hu⟩

end Sys2Proof.Tests
end

