-- ==== Sys2Proof/Tests/Slice0.lean ====
section
/-! SUPPORT. Tests: the smoke test of WellFormed, the decoding of every command from a written-out word, and vectors
of spec/95_test_vectors.md (named V-…) run under its test configuration. Expected values are the spec's. -/

namespace Sys2Proof.Tests

open Sys2Proof.Machine

/-! ## WellFormed (R106, R109) -/

theorem test_u8_refuses_out_of_range :
    (Operand.mk .u8 256).inRange = false ∧ (Operand.mk .u8 (-1)).inRange = false ∧
    (Operand.mk .u8 255).inRange = true := by decide
theorem test_s8_refuses_out_of_range :
    (Operand.mk .s8 128).inRange = false ∧ (Operand.mk .s8 (-129)).inRange = false ∧
    (Operand.mk .s8 (-128)).inRange = true := by decide
theorem test_u16_refuses_out_of_range :
    (Operand.mk .u16 65536).inRange = false ∧ (Operand.mk .u16 (-1)).inRange = false ∧
    (Operand.mk .u16 65535).inRange = true := by decide
theorem test_s16_refuses_out_of_range :
    (Operand.mk .s16 32768).inRange = false ∧ (Operand.mk .s16 (-32769)).inRange = false ∧
    (Operand.mk .s16 (-32768)).inRange = true := by decide

/-! ## Decoding: words written out as `OPC B H` from R101 and R104 -/

theorem test_decode_read : decode (0x01#8 ++ 0x23#8 ++ 0x0000#16) = .ok (.read 0x23) := by decide
theorem test_decode_rnd :
    decode (0x10#8 ++ 0x00#8 ++ 0x0000#16) = .ok .rndUpdate ∧
    decode (0x11#8 ++ 0x00#8 ++ 0xACE1#16) = .ok (.rndSeed 0xACE1) ∧
    decode (0x12#8 ++ 0x00#8 ++ 0x0000#16) = .ok .rndState ∧
    decode (0x13#8 ++ 0x00#8 ++ 0x0000#16) = .ok .rndByte := by decide
theorem test_decode_clk :
    decode (0x20#8 ++ 0x00#8 ++ 0x0000#16) = .ok .clkInit ∧
    decode (0x21#8 ++ 0x02#8 ++ 0x0078#16) = .ok (.clkUpdate 2 120) ∧
    decode (0x22#8 ++ 0x00#8 ++ 0x0000#16) = .ok .clkTick ∧
    decode (0x23#8 ++ 0xFB#8 ++ 0x0000#16) = .ok (.clkWrap 0xFB) ∧
    decode (0x24#8 ++ 0x00#8 ++ 0x0000#16) = .ok .clkReset := by decide
theorem test_decode_clk_flags :
    decode (0x25#8 ++ 0x00#8 ++ 0x0000#16) = .ok .clkLock ∧
    decode (0x26#8 ++ 0x00#8 ++ 0x0000#16) = .ok .clkUnlock ∧
    decode (0x27#8 ++ 0x00#8 ++ 0x0000#16) = .ok .clkRising ∧
    decode (0x28#8 ++ 0x00#8 ++ 0x0000#16) = .ok .clkFallen ∧
    decode (0x29#8 ++ 0x00#8 ++ 0x0000#16) = .ok .clkLocked := by decide
theorem test_decode_pg :
    decode (0x30#8 ++ 0x00#8 ++ 0x0000#16) = .ok .pgInit ∧
    decode (0x31#8 ++ 0x00#8 ++ 0x0000#16) = .ok .pgReset ∧
    decode (0x32#8 ++ 0x03#8 ++ 0x0000#16) = .ok (.pgTick 3) ∧
    decode (0x33#8 ++ 0x03#8 ++ 0x00C8#16) = .ok (.pgSet 3 200) ∧
    decode (0x34#8 ++ 0x00#8 ++ 0x0000#16) = .ok .pgState ∧
    decode (0x35#8 ++ 0x00#8 ++ 0x0000#16) = .ok .pgStep := by decide
theorem test_decode_osc :
    decode (0x40#8 ++ 0x00#8 ++ 0x0000#16) = .ok .oscInit ∧
    decode (0x41#8 ++ 0x00#8 ++ 0xFF80#16) = .ok (.oscSetPitch 0xFF80) ∧
    decode (0x42#8 ++ 0x05#8 ++ 0x0000#16) = .ok (.oscSetShape 5) ∧
    decode (0x43#8 ++ 0x01#8 ++ 0x0000#16) = .ok (.oscSetGate 1) ∧
    decode (0x44#8 ++ 0x80#8 ++ 0x0000#16) = .ok (.oscSetPw 128) ∧
    decode (0x45#8 ++ 0x00#8 ++ 0x0000#16) = .ok .oscRender := by decide

/-- The reserved bits of each format (R102, R103): the lowest and the highest of each. -/
theorem test_decode_reserved :
    decode 0x10000001 = .error .reservedField ∧ decode 0x10800000 = .error .reservedField ∧
    decode 0x32030001 = .error .reservedField ∧ decode 0x2300FF00 = .error .reservedField ∧
    decode 0x1101ACE1 = .error .reservedField ∧ decode 0x1180ACE1 = .error .reservedField ∧
    decode 0x33060100 = .error .reservedField ∧ decode 0x33068000 = .error .reservedField := by decide

/-- V-FLT-1 to V-FLT-3 (R105). -/
theorem test_decode_illegal :
    decode 0x00000000 = .error .illegalOpcode ∧ decode 0xFF000000 = .error .illegalOpcode ∧
    decode 0x02000000 = .error .illegalOpcode ∧ decode 0x46000001 = .error .illegalOpcode := by decide

/-- The table's numbering of bits (spec/opcode_table.json) is the word's. -/
theorem test_table_word :
    decodeTableWord 32 0x21020078 = some (.clkUpdate 2 120) ∧ decodeTableWord 32 0x10000001 = none := by decide

/-- R87: byte 0 is bits 7:0. -/
theorem test_word_bytes : wordOfBytes 0x78 0x00 0x02 0x21 = 0x21020078 := by decide

/-! ## The assembler (R109, R111) -/

/-- V-ENC-2, V-ENC-4, V-ENC-5. -/
theorem test_assemble_line :
    (assembleLine "CLK_WRAP -5".toList).map (·.map encode) = some [0x23FB0000] ∧
    (assembleLine "OSC_SET_PITCH -128 ; low".toList).map (·.map encode) = some [0x4100FF80] ∧
    (assembleLine "RND_SEED 0xACE1".toList).map (·.map encode) = some [0x1100ACE1] := by decide

/-- The model's own choice of log entry 11, no vector: `-0` is 0 in an unsigned field, and `-1` is out of range. -/
theorem test_assemble_minus_zero :
    assembleLine "READ -0".toList = some [.read 0] ∧ assembleLine "READ -1".toList = none := by decide

/-- V-ENC-11, V-ENC-12, and an operand out of its field's range. -/
theorem test_assemble_pseudo :
    (assemble "PG_SET_DENSITY" [1, 17]).map (·.map encode) = some [0x33040011] ∧
    (assemble "PG_SET_OPTIONS" [2, 1, 0, 1, 1, 0]).map (·.map encode) = some [0x330600E2] ∧
    assemble "PG_TICK" [256] = none := by decide

/-! ## Vectors under the test configuration (part 2 of spec/95_test_vectors.md) -/

/-- The reset state of part 2. -/
def base : State := resetWith testParams

/-- The state a command answers, or the same state where it does not answer one. -/
def ran (i : Instr) (s : State) : State :=
  match exec i s with
  | .next t => t
  | .fault _ => s
  | .refused _ => s

/-- V-ENC-7, V-ENC-9 (R110). -/
theorem test_read : (ran (.read 0x23) base).resp = 0x40 ∧ (ran (.read 0x36) base).resp = 0xCA := by decide

/-- V-ENC-10: BAD_REGISTER, and `RESP` is not written. -/
theorem test_read_bad_register :
    ran (.read 0x50) base = { base with fault := true, cause := 3, faultCmd := 0x01500000 } := by decide

/-- V-RND-2. -/
theorem test_rnd_update :
    (ran .rndUpdate { base with rnd := 0x0001 }).rnd = 0xB400 ∧
    (ran .rndUpdate { base with rnd := 0x1C4E }).rnd = 0x0E27 := by decide

/-- V-RND-4, V-FLT-7. -/
theorem test_rnd_seed :
    (ran (.rndSeed 1) base).rnd = 1 ∧
    ran (.rndSeed 0) base = { base with fault := true, cause := 4, faultCmd := 0x11000000 } := by decide

/-- V-RND-3. -/
theorem test_rnd_queries :
    (ran .rndState { base with rnd := 0xE270 }).resp = 0xE270 ∧
    (ran .rndByte { base with rnd := 0xE270 }).resp = 0xE2 := by decide

/-- V-CLK-8: the increment is the parameter's. -/
theorem test_clk_update :
    (clkUpdate testParams 0 30 base).clk.bpm = 30 ∧
    (clkUpdate testParams 0 30 base).clk.phaseIncrement = 0x00AAAAAA := by decide

/-- V-FLT-9, V-FLT-11: the resolution is checked first. -/
theorem test_clk_update_faults :
    (clkUpdate testParams 3 0 base).cause = 5 ∧ (clkUpdate testParams 2 481 base).cause = 6 ∧
    (clkUpdate testParams 2 480 base).fault = false := by decide

/-- A state with the given clock phase and the increment of V-CLK-4. -/
def atPhase (phase : Word) : State := { base with clk := { base.clk with phase := phase, phaseIncrement := 0x20000000 } }

/-- V-CLK-4. -/
theorem test_clk_tick :
    (ran .clkTick (atPhase 0x70000000)).clk.phase = 0x90000000 ∧
    (ran .clkTick (atPhase 0xF0000000)).clk.phase = 0x10000000 := by decide

/-- V-CLK-5, V-CLK-6. -/
theorem test_clk_wrap :
    (ran (.clkWrap 0) (atPhase 0x90000000)).clk.phase = 0x10000000 ∧
    (ran (.clkWrap 0xF0) (atPhase 0x90000000)).clk.phase = 0x20000000 ∧
    (ran (.clkWrap 0xF0) (atPhase 0x90000000)).clk.fallingEdge = 0x38 ∧
    (ran (.clkWrap 0x81) (atPhase 0x90000000)).clk.phase = 0x8F000000 := by decide

/-- V-FLT-12. -/
theorem test_clk_wrap_fault : (ran (.clkWrap 0x80) base).cause = 7 := by decide

/-- V-CLK-8, V-CLK-2. -/
theorem test_clk_reset_lock_unlock :
    (ran .clkReset (atPhase 0x12345678)).clk.phase = 0 ∧ (ran .clkLock base).clk.locked = true ∧
    (ran .clkUnlock (ran .clkLock base)).clk.locked = false ∧ (ran .clkLocked (ran .clkLock base)).resp = 1 := by decide

/-- V-CLK-2, V-CLK-3. -/
theorem test_clk_edges :
    (ran .clkRising (atPhase 0)).resp = 1 ∧ (ran .clkRising (atPhase 0x20000000)).resp = 0 ∧
    (ran .clkFallen (atPhase 0x40000000)).resp = 1 ∧ (ran .clkFallen (atPhase 0x3FFFFFFF)).resp = 0 := by decide

/-- V-CLK-10 and R160. -/
theorem test_clk_init : (clkInitValue testParams).phaseIncrement = 0x10000000 := by decide

/-- V-PG-1 and P1: the first tick from reset. -/
theorem test_pg_tick_drums :
    (pgTick testParams 3 base).pg.state = 0xE7 ∧ (pgTick testParams 3 base).pg.step = 1 ∧
    (pgTick testParams 3 base).rnd = 0xE270 := by decide

/-- The set-up of V-PG-12. -/
def euclidBase : State :=
  { base with pg := { base.pg with opt := ⟨56, 40, 0⟩, density := ⟨24, 16, 8⟩, options := unpack 0x8A } }

/-- V-PG-12: the first tick. -/
theorem test_pg_tick_euclidean :
    (pgTick testParams 3 euclidBase).pg.state = 0xFC ∧
    (pgTick testParams 3 euclidBase).pg.euclideanStep = ⟨1, 1, 1⟩ := by decide

/-- V-PG-5. -/
theorem test_pg_reset :
    (ran .pgReset { base with pg := { base.pg with step := 17, pulse := 2, state := 0x5A } }).pg =
      { base.pg with state := 0x5A } := by decide

/-- V-PG-15, V-FLT-14. -/
theorem test_pg_set :
    (ran (.pgSet 0 56) base).pg.opt = ⟨56, 128, 0⟩ ∧ (ran (.pgSet 5 8) base).pg.density = ⟨200, 200, 8⟩ ∧
    (ran (.pgSet 7 0) base).cause = 8 := by decide

/-- V-PG-14. -/
theorem test_pack_unpack :
    pack (unpack 0xCA) = 0xCA ∧ pack (unpack 0x45) = 0x42 ∧ pack (unpack 0xFF) = 0xFA ∧ pack (unpack 0x3B) = 0x3A := by
  decide

/-- V-PG-6. -/
theorem test_u8_mix : u8Mix 100 200 128 = 149 ∧ u8Mix 10 0 0 = 9 ∧ u8Mix 0 255 255 = 254 := by decide

/-- V-PG-4. -/
theorem test_pg_queries :
    (ran .pgStep { base with pg := { base.pg with step := 5 } }).resp = 5 ∧
    (ran .pgState { base with pg := { base.pg with state := 0xE7 } }).resp = 0xE7 := by decide

/-- V-PG-16: the options of R190 after the clamp of R211. -/
theorem test_pg_init : pack (pgInitValue testParams).options = 0xCA := by decide

/-- V-OSC-3, V-FLT-18, V-FLT-19. -/
theorem test_osc_set_pitch :
    (oscSetPitch testParams 7808 base).osc.note = 61 ∧ (oscSetPitch testParams 0xFFFF base).cause = 11 ∧
    (oscSetPitch testParams 13824 base).cause = 11 ∧ (oscSetPitch testParams 13823 base).fault = false := by decide

/-- V-OSC-12, V-FLT-16. -/
theorem test_osc_set_shape :
    (ran (.oscSetShape 5) base).osc.shape = .noise ∧ (ran (.oscSetShape 6) base).cause = 9 := by decide

/-- V-OSC-12, V-FLT-17: only the opening of a closed gate makes the increment stale. -/
theorem test_osc_set_gate :
    (ran (.oscSetGate 1) { base with osc := { base.osc with dirty := false } }).osc.dirty = true ∧
    (ran (.oscSetGate 1) { base with osc := { base.osc with dirty := false, gate := true } }).osc.dirty = false ∧
    (ran (.oscSetGate 2) base).cause = 10 := by decide

/-- V-OSC-12. -/
theorem test_osc_set_pw : (ran (.oscSetPw 128) base).osc.cvPw = 128 := by decide

/-- V-OSC-1. -/
theorem test_phase_increment :
    computePhaseIncrement testParams 1535 false = 0x007FF5 ∧ computePhaseIncrement testParams 1535 true = 0x00FFEA ∧
    computePhaseIncrement testParams 13823 true = 0x7FF575 := by decide

/-- The gate open at pitch 12288 with the given shape, as V-OSC-6 to V-OSC-8 set it up. -/
def playing (shape : Shape) : State :=
  { base with osc := { base.osc with pitch := 12288, note := 96, gate := true, shape := shape } }

/-- V-OSC-6. -/
theorem test_render_triangle : (oscRender testParams (playing .triangle)).fifo = [1375, 2751, 1375, 0] := by decide

/-- V-OSC-8, at `cv_pw = 128`. -/
theorem test_render_sine :
    (oscRender testParams { playing .sine with osc := { (playing .sine).osc with cvPw := 128 } }).fifo =
      [2048, 2751, 2751, 0] := by decide

/-- V-OSC-7. -/
theorem test_render_nes_triangle : (oscRender testParams (playing .nesTriangle)).fifo = [640, 1280, 1920, 0] := by decide

/-- The gate open at pitch 13823 with the given shape, as V-OSC-9 and V-OSC-10 set it up. -/
def hissing (shape : Shape) : State :=
  { base with osc := { base.osc with pitch := 13823, note := 107, gate := true, shape := shape } }

/-- V-OSC-9, V-OSC-10. -/
theorem test_render_noise :
    (oscRender testParams (hissing .nesNoiseShort)).osc.rng = 0x651D ∧
    (oscRender testParams (hissing .nesNoiseLong)).osc.rng = 0x251D ∧
    (oscRender testParams (hissing .noise)).fifo = [2476, 2476, 725, 725] := by decide

/-- V-OSC-5, V-FLT-22: silence with the gate closed, and BUFFER_FULL with no room. -/
theorem test_render_silence_and_full :
    (oscRender testParams base).fifo = [2048, 2048, 2048, 2048] ∧
    (oscRender testParams { base with fifo := List.replicate 5 2048 }).cause = 12 := by decide

/-- V-OSC-12 and R258: OSC_INIT makes the increment stale and puts the midpoint sample back. -/
theorem test_osc_init : (oscInitValue testParams).dirty = true ∧ (oscInitValue testParams).note = 60 := by decide

/-! ## Steps -/

/-- R100: a word at the command port is the next step's. -/
theorem test_step_runs_the_word :
    step (base.withFetchWord 32 0x25000000) = .next { base with clk := { base.clk with locked := true } } := rfl

/-- V-FLT-23, R295: no command is performed while the latch is set. -/
theorem test_step_ignores_when_latched :
    step ({ base with fault := true, cause := 12 }.withFetchWord 32 0x10000000) =
      .next { base with fault := true, cause := 12 } := rfl

/-- R88: the host takes the oldest sample. -/
theorem test_step_removes_the_oldest :
    step { base with fifo := [1, 2], host := [.removeSample] } = .next { base with fifo := [2] } := rfl

end Sys2Proof.Tests
end

