-- ==== Sys2Proof/Tests/Witnesses.lean ====
section
/-! SUPPORT. For every statement of Certificates/Slice0/Obligations.lean that has hypotheses, a concrete state and
concrete operands that meet all of them; for a statement in clauses, one of each clause where the parameters allow one.
`base` is the reset state under the test configuration; a hypothesis on `Config.params` is met at `State.reset`, from
the constraints that every parameter set carries. -/

namespace Sys2Proof.Tests

open Sys2Proof.Machine Sys2Proof.Rules

/-! ## The machine as a whole -/

theorem noteOf_toInt (p : Half) : (noteOf p).toInt = p.toInt / 128 := by
  have h1 := BitVec.toInt_lt (x := p)
  have h2 := BitVec.le_toInt p
  have e : noteOf p = BitVec.ofInt 16 (p.toInt / 128) := by
    simp only [noteOf, asr, pitchValue]; norm_num
  rw [e, BitVec.toInt_ofInt]
  exact Int.bmod_eq_of_le (by omega) (by omega)

/-- A state with a clock tick presented, another LFSR state and one sample in the FIFO. -/
def ready : State :=
  { State.reset with rnd := 0x1C4E, fifo := [2048], host := [.command 0x22000000] }

theorem witness_EveryStepKeepsTheInvariant :
    ready.Inv Config.params ∧ ∃ t, step ready = .next t := by
  refine ⟨?_, _, rfl⟩
  exact
    { rnd_ne := by decide
      clk :=
        { bpm_min := Config.params.clkBpmMin_le_init
          bpm_max := Config.params.clkInitBpm_le_max
          increment_pos := (Config.params.clockIncrement_legal _ _ Config.params.clkBpmMin_le_init
            Config.params.clkInitBpm_le_max Config.params.clkInitRes_le).1
          increment_lt := (Config.params.clockIncrement_legal _ _ Config.params.clkBpmMin_le_init
            Config.params.clkInitBpm_le_max Config.params.clkInitRes_le).2
          fallingEdge_le := by decide }
      pg := { pulse_le := by decide, perturbation_le := by decide, perturbation_eq1 := rfl, perturbation_eq2 := rfl }
      osc :=
        { rng_ne := Config.params.oscRngReset_ne_zero
          pitch_min := Config.params.oscPitchMin_le_reset
          pitch_max := Config.params.oscPitchReset_le_max
          note_eq := noteOf_toInt _
          increment_fresh := fun h => by cases h }
      fifo_le := (Nat.le_trans Config.params.oscBlock_pos Config.params.oscBlock_le_fifoDepth : 1 ≤ _)
      latch_clear := fun _ => ⟨rfl, rfl⟩
      latch_set := fun h => by cases h }

theorem witness_StepRunsTheDecodedCommand :
    ready.host = .command 0x22000000 :: [] ∧ ready.fault = false ∧ decode 0x22000000 = .ok .clkTick :=
  ⟨rfl, rfl, by decide⟩

theorem witness_UndecodedWordRaisesItsCause :
    base.fault = false ∧ decode 0x46000000 = .error .illegalOpcode ∧ decode 0x45000001 = .error .reservedField ∧
    ({ base with host := [.command 0x46000000] } : State).host = .command 0x46000000 :: [] := by decide

theorem witness_LatchedCoreIgnoresEveryWord : (raise .seedZero 0x11000000 base).fault = true := rfl

theorem witness_FaultingWordChangesOnlyTheLatch :
    base.fault = false ∧ performWord 0 base = .next (raise .illegalOpcode 0 base) ∧
    (raise .illegalOpcode 0 base).fault = true := ⟨rfl, rfl, rfl⟩

/-- Every cause has a command that raises it, and each such command an operand next to it that does not. -/
theorem witness_CommandsRaiseExactlyTheirCauses :
    violation testParams base (.read 0x4B) = some .badRegister ∧ violation testParams base (.read 0x4A) = none ∧
    violation testParams base (.rndSeed 0) = some .seedZero ∧ violation testParams base (.rndSeed 1) = none ∧
    violation testParams base (.clkUpdate 3 29) = some .badResolution ∧
    violation testParams base (.clkUpdate 2 29) = some .bpmRange ∧
    violation testParams base (.clkUpdate 2 30) = none ∧
    violation testParams base (.clkWrap 0x80) = some .badSwing ∧ violation testParams base (.clkWrap 0x81) = none ∧
    violation testParams base (.pgSet 7 0) = some .badIndex ∧ violation testParams base (.pgSet 6 0) = none ∧
    violation testParams base (.oscSetShape 6) = some .badShape ∧
    violation testParams base (.oscSetGate 2) = some .badGate ∧
    violation testParams base (.oscSetPitch 13824) = some .pitchRange ∧
    violation testParams base (.oscSetPitch 13823) = none ∧
    violation testParams { base with fifo := List.replicate 5 0 } .oscRender = some .bufferFull ∧
    violation testParams { base with fifo := List.replicate 4 0 } .oscRender = none := by decide

theorem witness_OnlyQueriesWriteResp : isQuery .clkTick = false ∧ ∃ t, exec .clkTick base = .next t :=
  ⟨rfl, _, rfl⟩

theorem witness_CommandsOnlyAppendToTheFifo : ∃ t, exec .oscRender base = .next t := ⟨_, rfl⟩

theorem witness_UnitsKeepToTheirOwnRegisters :
    (∃ t, exec .clkTick base = .next t) ∧ unitOf .clkTick = 2 ∧ ∀ n, Instr.clkTick ≠ .pgTick n :=
  ⟨⟨_, rfl⟩, by decide, fun _ => by simp⟩

theorem witness_NoOtherCommandDependsOnTheLock :
    Instr.clkLock ≠ .clkLocked ∧ Instr.clkLock ≠ .read 0x24 ∧ ∃ t, exec .clkLock base = .next t :=
  ⟨by decide, by decide, _, rfl⟩

/-! ## Encoding -/

theorem witness_AcceptedWordIsItsCommandsWord : decode 0x330300C8 = .ok (.pgSet 3 200) := by decide

/-- Operands just out of the range of each field, below it and above it. -/
theorem witness_AssemblerGivesBackEveryCommand :
    ((-1 : Int) < 0 ∨ 255 < (-1 : Int)) ∧ ((256 : Int) < 0 ∨ 255 < (256 : Int)) ∧
    ((-1 : Int) < 0 ∨ 65535 < (-1 : Int)) ∧ ((65536 : Int) < 0 ∨ 65535 < (65536 : Int)) ∧
    ((-129 : Int) < -128 ∨ 127 < (-129 : Int)) ∧ ((128 : Int) < -128 ∨ 127 < (128 : Int)) ∧
    ((-32769 : Int) < -32768 ∨ 32767 < (-32769 : Int)) ∧ ((32768 : Int) < -32768 ∨ 32767 < (32768 : Int)) := by decide

/-- The hypotheses of `EncodedAs`: words with the opcode, one with clear reserved bits and one with a set one. -/
theorem witness_EncodedAs :
    (0x23FB0000 : Word).extractLsb' 24 8 = 0x23 ∧ (0x23FB0000 : Word) &&& 0x0000FFFF = 0 ∧
    (0x2300FF00 : Word).extractLsb' 24 8 = 0x23 ∧ (0x2300FF00 : Word) &&& 0x0000FFFF ≠ 0 ∧ base.fault = false := by
  decide

/-! ## RND and CLK -/

theorem witness_RndUpdateIsOneGaloisStep : (1 : Half) ≠ 0 ∧ (0xB400 : Half) ≠ 0 := by decide

theorem witness_RndPeriodIsMaximal : base.fault = false ∧ base.rnd ≠ 0 ∧ (1 : Half) ≠ 0 := by decide

/-- The lowest BPM and the highest resolution of every parameter set. -/
theorem witness_ClkUpdateSetsTempo :
    Config.params.clkBpmMin.toNat ≤ Config.params.clkBpmMin.toNat ∧
    Config.params.clkBpmMin.toNat ≤ Config.params.clkBpmMax.toNat ∧ (2 : BitVec 2).toNat ≤ 2 :=
  ⟨Nat.le_refl _, Nat.le_trans Config.params.clkBpmMin_le_init Config.params.clkInitBpm_le_max, by decide⟩

/-- A state at phase 0 with the given increment. -/
def ticking (increment : Word) : State := { base with clk := { base.clk with phase := 0, phaseIncrement := increment } }

/-- The conditions of R170 at the amounts 0, 16, -127 and 127, the increment at its largest for 16 and -127. -/
theorem witness_TickSequencesWrapAtTheWrapPoint :
    TickLawApplies 0 (ticking 0x40000000) ∧ TickLawApplies 0x10 (ticking 0x70000000) ∧
    TickLawApplies 0x81 (ticking 0x00FFFFFF) ∧ TickLawApplies 0x7F (ticking 0x01000000) :=
  ⟨⟨rfl, by decide, by decide, by decide, by decide, by decide⟩,
    ⟨rfl, by decide, by decide, by decide, by decide, by decide⟩,
    ⟨rfl, by decide, by decide, by decide, by decide, by decide⟩,
    ⟨rfl, by decide, by decide, by decide, by decide, by decide⟩⟩

/-- V-CLK-1 at 480 BPM and resolution 2: the rising edges of sequences 2 and 4, and none between. -/
theorem witness_RisingEdgesAreEvenlySpaced :
    TickLawApplies 0 (ticking 0x40000000) ∧ (ticking 0x40000000).clk.phase = 0 ∧
    RisesAt 0 (ticking 0x40000000) 1 ∧ RisesAt 0 (ticking 0x40000000) 3 ∧
    ∀ m, 1 < m → m < 3 → ¬ RisesAt 0 (ticking 0x40000000) m := by
  refine ⟨witness_TickSequencesWrapAtTheWrapPoint.1, rfl, ?_, ?_, fun m h1 h2 => ?_⟩
  · unfold RisesAt; decide
  · unfold RisesAt; decide
  · obtain rfl : m = 2 := by omega
    unfold RisesAt; decide

/-! ## PG -/

/-- A pulse of 1 in Drums mode, and an odd step in Euclidean mode. -/
theorem witness_PgTickHoldsBitsWithoutABody :
    (¬ DrumsRuns { base.pg with pulse := 1 } ∧ ¬ EuclidRuns { base.pg with pulse := 1 }) ∧
    ¬ DrumsRuns { euclidBase.pg with step := 31 } ∧ ¬ EuclidRuns { euclidBase.pg with step := 31 } := by decide

/-- At step 0, where the perturbations are drawn, and at the last step, with and without `output_clock`. -/
theorem witness_DrumsTickWritesTriggersAndAccents :
    DrumsRuns base.pg ∧ DrumsRuns { base.pg with step := 31 } ∧ base.pg.options.outputClock = false ∧
    DrumsRuns { base.pg with options := unpack 0xEA } ∧ (unpack 0xEA).outputClock = true := by decide

theorem witness_EuclideanTickWritesTriggersAndResets :
    EuclidRuns euclidBase.pg ∧ EuclidRuns { euclidBase.pg with step := 30 } ∧
    euclidBase.pg.options.outputClock = false ∧
    EuclidRuns { euclidBase.pg with options := unpack 0xAA } ∧ (unpack 0xAA).outputClock = true := by decide

theorem witness_PulseAndStepFollowTheTotal : base.fault = false := rfl

theorem witness_DensityNeverLowersTriggers :
    base.fault = false ∧ base.pg.options.outputMode = .drums ∧ cell base.pg.density 2 ≤ (201 : Byte).toNat := by decide

theorem witness_EuclideanModeIgnoresTheLfsr :
    euclidBase.fault = false ∧ euclidBase.pg.options.outputMode = .euclidean := by decide

theorem witness_StoredOnlyOptionsDoNotReachATick :
    (unpack 0x41).outputClock = base.pg.options.outputClock ∧
    (unpack 0x41).outputMode = base.pg.options.outputMode ∧ unpack 0x41 ≠ base.pg.options ∧
    ∃ t, exec (.pgTick 3) base = .next t := ⟨by decide, by decide, by decide, _, rfl⟩

/-! ## OSC -/

/-- The reset state with the gate open and the given shape. -/
def opened (shape : Shape) : State :=
  { State.reset with osc := { State.reset.osc with gate := true, shape := shape } }

theorem opened_ready (shape : Shape) :
    HasRoom Config.params (opened shape) ∧ (opened shape).osc.gate = true ∧
    PitchInTable Config.params (opened shape).osc :=
  ⟨Config.params.oscBlock_le_fifoDepth, rfl,
    Int.le_trans Config.params.oscPitchReset_le_max Config.params.oscPitchMax_le⟩

/-- A FIFO at its depth has no room; an empty one has. -/
theorem witness_RenderFaultsWhenFullAndIsSilentWhenClosed :
    Config.params.fifoDepth -
        ({ State.reset with fifo := List.replicate Config.params.fifoDepth 0 } : State).fifo.length <
      Config.params.oscBlock ∧
    HasRoom Config.params State.reset ∧ State.reset.osc.gate = false := by
  refine ⟨?_, Config.params.oscBlock_le_fifoDepth, rfl⟩
  have := Config.params.oscBlock_pos
  simp only [List.length_replicate]; omega

theorem witness_RenderTriangleReadsTheWavetables :
    HasRoom Config.params (opened .nesTriangle) ∧ (opened .nesTriangle).osc.gate = true ∧
    PitchInTable Config.params (opened .nesTriangle).osc ∧ (opened .nesTriangle).osc.shape = .nesTriangle ∧
    (opened .triangle).osc.shape = .triangle :=
  ⟨(opened_ready _).1, rfl, (opened_ready _).2.2, rfl, rfl⟩

theorem witness_RenderSineHoldsBetweenAuxWraps :
    HasRoom Config.params (opened .sine) ∧ (opened .sine).osc.gate = true ∧
    PitchInTable Config.params (opened .sine).osc ∧ (opened .sine).osc.shape = .sine :=
  ⟨(opened_ready _).1, rfl, (opened_ready _).2.2, rfl⟩

/-- The short shape with tap 6. -/
theorem witness_RenderNesNoiseHasTwoLevels :
    HasRoom Config.params (opened .nesNoiseShort) ∧ (opened .nesNoiseShort).osc.gate = true ∧
    PitchInTable Config.params (opened .nesNoiseShort).osc ∧
    ((opened .nesNoiseShort).osc.shape = .nesNoiseShort ∧ 6 = 6 ∨
      (opened .nesNoiseShort).osc.shape = .nesNoiseLong ∧ 6 = 1) ∧ (0x8000 : Half) ≠ 0 :=
  ⟨(opened_ready _).1, rfl, (opened_ready _).2.2, .inl ⟨rfl, rfl⟩, by decide⟩

/-- The long shape with tap 1. -/
theorem witness_RenderNesNoiseHasTwoLevels_long :
    HasRoom Config.params (opened .nesNoiseLong) ∧ (opened .nesNoiseLong).osc.gate = true ∧
    PitchInTable Config.params (opened .nesNoiseLong).osc ∧
    ((opened .nesNoiseLong).osc.shape = .nesNoiseShort ∧ 1 = 6 ∨
      (opened .nesNoiseLong).osc.shape = .nesNoiseLong ∧ 1 = 1) ∧ (1 : Half) ≠ 0 :=
  ⟨(opened_ready _).1, rfl, (opened_ready _).2.2, .inr ⟨rfl, rfl⟩, by decide⟩

theorem witness_RenderNoiseStaysInItsRange :
    HasRoom Config.params (opened .noise) ∧ (opened .noise).osc.gate = true ∧
    PitchInTable Config.params (opened .noise).osc ∧ (opened .noise).osc.shape = .noise :=
  ⟨(opened_ready _).1, rfl, (opened_ready _).2.2, rfl⟩

/-- The highest pitch the table serves, under the test configuration. -/
theorem witness_PhaseIncrementFoldsByOctaves :
    (13823 : Half).toInt ≤ testParams.oscRefPitch.toInt + 1535 ∧
    ¬ (13824 : Half).toInt ≤ testParams.oscRefPitch.toInt + 1535 := by decide

/-- The two clauses meet where the upper pitch reaches the reference: 12288, and 12287 below it. -/
theorem witness_OctaveUpDoublesTheIncrement :
    ((12288 : Half).toInt = (10752 : Half).toInt + 1536 ∧ (12288 : Half).toInt ≤ testParams.oscRefPitch.toInt + 1535 ∧
      testParams.oscRefPitch.toInt ≤ (12288 : Half).toInt) ∧
    (12287 : Half).toInt = (10751 : Half).toInt + 1536 ∧ (12287 : Half).toInt ≤ testParams.oscRefPitch.toInt + 1535 ∧
      ¬ testParams.oscRefPitch.toInt ≤ (12287 : Half).toInt := by decide

end Sys2Proof.Tests
end

section
/-! Accepted words and their commands (spec/30_encoding.md R101 to R104): a row of the opcode map, read at fields that
meet its format, encodes to the word of those fields. -/

namespace Sys2Proof.FaultLatch

open Sys2Proof.Laws

/-- The fields `b` and `h` of a word whose bits reserved by the format are 0 (R102, R103). -/
def FieldsClear : Format → Byte → Half → Prop
  | .N, b, h => b = 0 ∧ h = 0
  | .B, _, h => h = 0
  | .H, b, _ => b = 0
  | .BH, _, _ => True
  | .BV, _, h => h.extractLsb' 8 8 = 0

/-- A field all of whose bits a mask selects is 0 where the masked word is. -/
theorem field_eq_zero_of_masked {w mask : Word} {start len : Nat} (hmask : mask.extractLsb' start len = BitVec.allOnes len)
    (h : w &&& mask = 0) : w.extractLsb' start len = 0#len := by
  have hfield := congrArg (BitVec.extractLsb' start len) h
  rw [BitVec.extractLsb'_and, hmask, BitVec.and_allOnes] at hfield
  simpa using hfield

/-- Clear reserved bits (R103) say of the fields what the format asks. -/
theorem fieldsClear_of_reserved {f : Format} {w : Word} (h : w &&& reservedMask f = 0) :
    FieldsClear f (bField w) (hField w) := by
  cases f with
  | N => exact ⟨field_eq_zero_of_masked (by decide) h, field_eq_zero_of_masked (by decide) h⟩
  | B => exact field_eq_zero_of_masked (by decide) h
  | H => exact field_eq_zero_of_masked (by decide) h
  | BH => trivial
  | BV =>
    have hbits : w.extractLsb' 8 8 = 0#8 := field_eq_zero_of_masked (by decide) h
    calc (hField w).extractLsb' 8 8 = w.extractLsb' 8 8 := by
          refine BitVec.eq_of_getLsbD_eq fun k hk => ?_
          simp [hField, hk]
      _ = 0 := hbits

/-- A half word whose upper byte is 0 is its lower byte, zero-extended. -/
theorem zero_append_lowByte {h : Half} (hz : h.extractLsb' 8 8 = 0) : (0 : Byte) ++ h.extractLsb' 0 8 = h := by
  rw [← hz]
  refine BitVec.eq_of_getLsbD_eq fun k hk => ?_
  rw [BitVec.getLsbD_append, BitVec.getLsbD_extractLsb', BitVec.getLsbD_extractLsb']
  split
  · next hlt => simp [hlt]
  · next hge => simp [show k - 8 < 8 by omega, show 8 + (k - 8) = k by omega]

/-- The command a row of R104 makes from clear fields has the word of that opcode and those fields. -/
theorem encode_build {opc : Byte} {f : Format} {build : Byte → Half → Instr} {b : Byte} {h : Half}
    (hrow : opcodeRow opc = some (f, build)) (hclear : FieldsClear f b h) :
    encode (build b h) = commandWord opc b h := by
  unfold opcodeRow at hrow
  split at hrow <;> cases hrow
  -- PG_SET alone takes part of `H`: its operand is the lower byte (R106).
  case h_19 => exact congrArg (commandWord 0x33 b) (zero_append_lowByte hclear)
  all_goals simp_all [FieldsClear, encode]

/-- A word that decodes is its command's word (R103): no accepted word has a second meaning. -/
theorem encode_of_decode {w : Word} {i : Instr} (h : decode w = .ok i) : encode i = w := by
  obtain ⟨f, build, hrow, hreserved, rfl⟩ := decode_ok h
  calc encode (build (bField w) (hField w))
      = commandWord (opcField w) (bField w) (hField w) := encode_build hrow (fieldsClear_of_reserved hreserved)
    _ = w := commandWord_fields w

end Sys2Proof.FaultLatch
end

section
/-! The fault latch along a command (spec/60_exceptions.md R291, R293): it raises one of its causes with its own word
and changes nothing besides, or it leaves the latch as it was. -/

namespace Sys2Proof.FaultLatch

open Sys2Proof.Machine Sys2Proof.Rules Sys2Proof.Laws

/-- The fault latch of `t` is that of `s` (R32). -/
structure SameLatch (s t : State) : Prop where
  fault : t.fault = s.fault
  cause : t.cause = s.cause
  faultCmd : t.faultCmd = s.faultCmd

theorem sameLatch_respond (v : Word) (s : State) : SameLatch s (respond v s) := ⟨rfl, rfl, rfl⟩
theorem sameLatch_setRnd (v : Half) (s : State) : SameLatch s (setRnd v s) := ⟨rfl, rfl, rfl⟩
theorem sameLatch_setClk (c : Clk) (s : State) : SameLatch s (setClk c s) := ⟨rfl, rfl, rfl⟩
theorem sameLatch_setPg (p : Pg) (s : State) : SameLatch s (setPg p s) := ⟨rfl, rfl, rfl⟩
theorem sameLatch_setOsc (o : Osc) (s : State) : SameLatch s (setOsc o s) := ⟨rfl, rfl, rfl⟩

theorem sameLatch_pgTick (P : Params) (n : Byte) (s : State) : SameLatch s (pgTick P n s) := ⟨rfl, rfl, rfl⟩

theorem sameLatch_renderSamples (next : Osc → Osc) (n : Nat) (s : State) : SameLatch s (renderSamples next n s) := by
  rw [renderSamples_eq]; exact ⟨rfl, rfl, rfl⟩

/-- `t` is `s` with the latch set by one of the causes of the command `i` and its own word, or has the latch of `s`. -/
def RaisesOrKeepsLatch (i : Instr) (s t : State) : Prop :=
  (∃ c ∈ commandCauses i, t = raise c (encode i) s) ∨ SameLatch s t

theorem raises {i : Instr} {s : State} {c : Cause} (hc : c ∈ commandCauses i) :
    RaisesOrKeepsLatch i s (raise c (encode i) s) := .inl ⟨c, hc, rfl⟩

theorem keeps {i : Instr} {s t : State} (h : SameLatch s t) : RaisesOrKeepsLatch i s t := .inr h

/-! ### The commands with a contract (R293) -/

theorem readRegister_latch (reg : Byte) (s : State) : RaisesOrKeepsLatch (.read reg) s (readRegister reg s) := by
  unfold readRegister
  split
  · exact keeps (sameLatch_respond _ s)
  · exact raises (by simp [commandCauses])

theorem rndSeed_latch (v : Half) (s : State) : RaisesOrKeepsLatch (.rndSeed v) s (rndSeed v s) := by
  unfold rndSeed
  split
  · exact raises (by simp [commandCauses])
  · exact keeps (sameLatch_setRnd v s)

theorem clkUpdate_latch (P : Params) (res : Byte) (bpm : Half) (s : State) :
    RaisesOrKeepsLatch (.clkUpdate res bpm) s (clkUpdate P res bpm s) := by
  unfold clkUpdate
  split
  · exact raises (by simp [commandCauses])
  · split
    · exact raises (by simp [commandCauses])
    · exact keeps (sameLatch_setClk _ s)

theorem clkWrap_latch (amount : Byte) (s : State) : RaisesOrKeepsLatch (.clkWrap amount) s (clkWrap amount s) := by
  unfold clkWrap
  split
  · exact raises (by simp [commandCauses])
  · exact keeps (sameLatch_setClk _ s)

theorem pgSet_latch (idx v : Byte) (s : State) : RaisesOrKeepsLatch (.pgSet idx v) s (pgSet idx v s) := by
  unfold pgSet
  split
  -- The last arm is the one for an index above 6.
  case h_8 => exact raises (by simp [commandCauses])
  all_goals exact keeps (sameLatch_setPg _ s)

theorem oscSetPitch_latch (P : Params) (p : Half) (s : State) :
    RaisesOrKeepsLatch (.oscSetPitch p) s (oscSetPitch P p s) := by
  unfold oscSetPitch
  split
  · exact raises (by simp [commandCauses])
  · exact keeps (sameLatch_setOsc _ s)

theorem oscSetShape_latch (shape : Byte) (s : State) :
    RaisesOrKeepsLatch (.oscSetShape shape) s (oscSetShape shape s) := by
  unfold oscSetShape
  split
  · exact keeps (sameLatch_setOsc _ s)
  · exact raises (by simp [commandCauses])

theorem oscSetGate_latch (g : Byte) (s : State) : RaisesOrKeepsLatch (.oscSetGate g) s (oscSetGate g s) := by
  unfold oscSetGate
  split
  · exact keeps (sameLatch_setOsc _ s)
  · exact keeps (sameLatch_setOsc _ s)
  · exact raises (by simp [commandCauses])

/-- With the gate open the increment is recomputed before the samples, and that leaves the latch too (R255). -/
theorem oscRender_latch (P : Params) (s : State) : RaisesOrKeepsLatch .oscRender s (oscRender P s) := by
  unfold oscRender
  split
  · exact raises (by simp [commandCauses])
  · split
    · obtain ⟨hfault, hcause, hcmd⟩ :=
        sameLatch_renderSamples (shapeSample P s.osc.shape) P.oscBlock (setOsc (recompute P s.osc) s)
      exact keeps ⟨hfault, hcause, hcmd⟩
    · exact keeps (sameLatch_renderSamples silenceSample P.oscBlock s)

/-! ### Every command and every word -/

/-- Every command raises one of its causes with its own word, or keeps the latch (R293). -/
theorem exec_latch {i : Instr} {s t : State} (h : exec i s = .next t) : RaisesOrKeepsLatch i s t := by
  cases i <;> cases h
  case read reg => exact readRegister_latch reg s
  case rndSeed v => exact rndSeed_latch v s
  case clkUpdate res bpm => exact clkUpdate_latch Config.params res bpm s
  case clkWrap amount => exact clkWrap_latch amount s
  case pgSet idx v => exact pgSet_latch idx v s
  case oscSetPitch p => exact oscSetPitch_latch Config.params p s
  case oscSetShape shape => exact oscSetShape_latch shape s
  case oscSetGate g => exact oscSetGate_latch g s
  case oscRender => exact oscRender_latch Config.params s
  case pgTick n => exact keeps (sameLatch_pgTick Config.params n s)
  case rndUpdate => exact keeps (sameLatch_setRnd _ s)
  case rndState | rndByte | clkRising | clkFallen | clkLocked | pgState | pgStep =>
    exact keeps (sameLatch_respond _ s)
  case clkInit | clkTick | clkReset | clkLock | clkUnlock => exact keeps (sameLatch_setClk _ s)
  case pgInit | pgReset => exact keeps (sameLatch_setPg _ s)
  case oscInit | oscSetPw => exact keeps (sameLatch_setOsc _ s)

/-- A command that goes from a clear latch to a set one raises one of its causes with its own word, and does nothing
else (R14). -/
theorem exec_raises_of_fault {i : Instr} {s t : State} (h : exec i s = .next t) (hs : s.fault = false)
    (ht : t.fault = true) : ∃ c ∈ commandCauses i, t = raise c (encode i) s := by
  rcases exec_latch h with hraise | hsame
  · exact hraise
  · rw [hsame.fault, hs] at ht
    cases ht

theorem wordCauses_of_decode {w : Word} {i : Instr} (h : decode w = .ok i) : wordCauses w = commandCauses i := by
  simp only [wordCauses, h]

theorem wordCauses_of_illegal {w : Word} (h : decode w = .error .illegalOpcode) : wordCauses w = [.illegalOpcode] := by
  simp only [wordCauses, h]

theorem wordCauses_of_reserved {w : Word} (h : decode w = .error .reservedField) :
    wordCauses w = [.reservedField] := by
  simp only [wordCauses, h]

/-- `raise` writes the latch and nothing else (R291). -/
theorem raise_eq_latched (c : Cause) (w : Word) (s : State) : raise c w s = latched (causeCode c) w s := rfl

/-- Settles O8: a word faults at decoding or in its command, and both ways it does nothing but `raise` with that word;
a command's own word is the presented one, since an accepted word has no second meaning. -/
theorem faultingWordChangesOnlyTheLatch : Obligations.FaultingWordChangesOnlyTheLatch := by
  intro w s t hs hstep ht
  rcases performWord_cases hstep with ⟨hf, -⟩ | ⟨-, hd, hout⟩ | ⟨-, hd, hout⟩ | ⟨i, -, hd, hout⟩
  · rw [hs] at hf; cases hf
  · cases hout
    exact ⟨.illegalOpcode, by simp [wordCauses_of_illegal hd], raise_eq_latched _ w s⟩
  · cases hout
    exact ⟨.reservedField, by simp [wordCauses_of_reserved hd], raise_eq_latched _ w s⟩
  · obtain ⟨c, hc, rfl⟩ := exec_raises_of_fault hout.symm hs ht
    rw [encode_of_decode hd]
    exact ⟨c, by rwa [wordCauses_of_decode hd], raise_eq_latched c w s⟩

end Sys2Proof.FaultLatch
end

section
/-! What a command can do to the state: one inversion lemma for `exec`, its cases the named updates of
Machine/Ops.lean, each with what the invariant of Safety.lean asks of the registers written. -/

namespace Sys2Proof.CommandEffects

open Sys2Proof.Machine Sys2Proof.Rules Sys2Proof.Laws

/-- `Effect P i s t`: the command `i` takes `s` to `t` by one of the named updates, and what it writes into a unit's
registers keeps that unit's invariant. Only a query answers; only a render lengthens the FIFO, within its depth. Which
causes a command raises is `FaultLatch.exec_latch`'s to say. -/
inductive Effect (P : Params) (i : Instr) (s : State) : State → Prop
  | raises (c : Cause) (cmd : Word) : Effect P i s (raise c cmd s)
  | answers (hquery : isQuery i = true) (v : Word) : Effect P i s (respond v s)
  | setsRnd {v : Half} (hrnd : s.rnd ≠ 0 → v ≠ 0) : Effect P i s (setRnd v s)
  | setsClk {c : Clk} (hclk : s.clk.Inv P → c.Inv P) : Effect P i s (setClk c s)
  | setsPg {p : Pg} (hpg : s.pg.Inv → p.Inv) : Effect P i s (setPg p s)
  | ticks {p : Pg} {v : Half} (hrnd : s.rnd ≠ 0 → v ≠ 0) (hpg : s.pg.Inv → p.Inv) :
      Effect P i s (setPg p (setRnd v s))
  | setsOsc {o : Osc} (hosc : s.osc.Inv P → o.Inv P) : Effect P i s (setOsc o s)
  | renders {o : Osc} {samples : List Sample} (hosc : s.osc.Inv P → o.Inv P)
      (hfit : s.fifo.length ≤ P.fifoDepth → (s.fifo ++ samples).length ≤ P.fifoDepth) :
      Effect P i s { s with fifo := s.fifo ++ samples, osc := o }

variable {P : Params}

/-! ### The CLK registers (R160 to R166) -/

theorem clkInitValue_inv (P : Params) : (clkInitValue P).Inv P :=
  have hinc := P.clockIncrement_legal _ _ P.clkBpmMin_le_init P.clkInitBpm_le_max P.clkInitRes_le
  { bpm_min := P.clkBpmMin_le_init
    bpm_max := P.clkInitBpm_le_max
    increment_pos := hinc.1
    increment_lt := hinc.2
    fallingEdge_le := by simp [clkInitValue] }

theorem tickClk_inv {c : Clk} (hc : c.Inv P) : (tickClk c).Inv P := { hc with }

/-- CLK_WRAP writes the phase and the falling edge, and nothing else (R163). -/
theorem wrapClk_frame (amount : Int) (c : Clk) :
    wrapClk amount c =
      { c with
        phase := (wrapClk amount c).phase
        fallingEdge := if amount = 0 then 0x40 else BitVec.ofNat 8 (wrapTop amount >>> 1) } := by
  by_cases hzero : amount = 0
  · simp only [wrapClk, if_pos hzero]
  · simp only [wrapClk, if_neg hzero]

/-- The wrap point's top byte is at most 255, so the falling edge, its half, is at most 127 (R163). -/
theorem wrapClk_inv {c : Clk} (amount : Byte) (hc : c.Inv P) : (wrapClk (swingAmount amount) c).Inv P := by
  have hlt := BitVec.toInt_lt (x := amount)
  have hhalf : wrapTop (swingAmount amount) >>> 1 ≤ 127 := by
    rw [Nat.shiftRight_eq_div_pow]; simp only [wrapTop, swingAmount]; omega
  rw [wrapClk_frame]
  refine { hc with fallingEdge_le := ?_ }
  split
  · simp
  · rw [BitVec.toNat_ofNat]; omega

theorem clkWrap_effect (amount : Byte) (s : State) : Effect P (.clkWrap amount) s (clkWrap amount s) := by
  unfold clkWrap
  split
  · exact .raises _ _
  · exact .setsClk (wrapClk_inv amount)

/-- The operands that CLK_UPDATE accepts are those for which R161 bounds the increment. -/
theorem clkUpdate_effect (P : Params) (res : Byte) (bpm : Half) (s : State) :
    Effect P (.clkUpdate res bpm) s (clkUpdate P res bpm s) := by
  unfold clkUpdate
  split
  · exact .raises _ _
  · next hres =>
    split
    · exact .raises _ _
    · next hbpm =>
      obtain ⟨hmin, hmax⟩ := not_or.mp hbpm
      have hmin' : P.clkBpmMin ≤ bpm := BitVec.not_lt.mp hmin
      have hmax' : bpm ≤ P.clkBpmMax := BitVec.not_lt.mp hmax
      have hres' : res.setWidth 2 ≤ 2#2 := by
        rw [BitVec.le_def, BitVec.toNat_setWidth]; simp; omega
      obtain ⟨hpos, hlt⟩ := P.clockIncrement_legal bpm _ hmin' hmax' hres'
      exact .setsClk fun hc =>
        { bpm_min := hmin', bpm_max := hmax', increment_pos := hpos, increment_lt := hlt
          fallingEdge_le := hc.fallingEdge_le }

/-! ### The PG registers (R190 to R207) -/

theorem pgInitValue_inv (P : Params) : (pgInitValue P).Inv :=
  { pulse_le := by simp [pgInitValue], perturbation_le := by simp [pgInitValue]
    perturbation_eq1 := rfl, perturbation_eq2 := rfl }

theorem resetPg_inv {pg : Pg} (hp : pg.Inv) : (resetPg pg).Inv := { hp with pulse_le := by simp [resetPg] }

/-- All three parts draw the one perturbation, which is at most 62 (R199). -/
theorem drawPerturbations_inv (rnd : Half) {pg : Pg} (hp : pg.Inv) : (drawPerturbations rnd pg).Inv := by
  unfold drawPerturbations
  split
  · exact
      { pulse_le := hp.pulse_le, perturbation_le := perturbation_le rnd pg.opt.p2
        perturbation_eq1 := rfl, perturbation_eq2 := rfl }
  · exact hp

theorem writeDrums_inv (P : Params) {pg : Pg} (hp : pg.Inv) : (writeDrums P pg).Inv := { hp with }

theorem evaluateBody_inv (P : Params) (rnd : Half) {pg : Pg} (hp : pg.Inv) : (evaluateBody P rnd pg).Inv := by
  rcases evaluateBody_cases P rnd pg with ⟨-, -, hdrums⟩ | ⟨-, -, -, heuclid⟩ | ⟨-, hsame⟩
  · rw [hdrums]; exact writeDrums_inv P (drawPerturbations_inv rnd hp)
  · rw [heuclid]; exact { hp with }
  · rw [hsame]; exact hp

/-- What is left of a total after its threes is a pulse of 0, 1 or 2 (R192, R44). -/
theorem advancePulses_inv (total : Nat) {pg : Pg} (hp : pg.Inv) : (advancePulses total pg).Inv := by
  rw [advancePulses_eq, advanceSteps_frame]
  exact { hp with pulse_le := by simp only [BitVec.toNat_ofNat]; omega }

theorem pgTick_effect (P : Params) (n : Byte) (s : State) : Effect P (.pgTick n) s (pgTick P n s) :=
  .ticks galoisStep_ne_zero fun hp =>
    have hrefresh : (refreshPg (galoisStep s.rnd) s.pg).Inv := { hp with }
    advancePulses_inv _ (evaluateBody_inv P _ hrefresh)

theorem pgSet_effect (idx v : Byte) (s : State) : Effect P (.pgSet idx v) s (pgSet idx v s) := by
  unfold pgSet
  split
  -- The last arm is the one for an index above 6.
  case h_8 => exact .raises _ _
  all_goals exact .setsPg fun hp => { hp with }

/-! ### The OSC registers (R251 to R266) -/

/-- The note is the pitch in whole semitones, and fits its register: an s16 over 128 is an s16 (R55). -/
theorem noteOf_toInt_eq_div (p : Half) : (noteOf p).toInt = p.toInt / 128 := by
  have hlt := BitVec.toInt_lt (x := p)
  have hle := BitVec.le_toInt p
  have hasr : asr (pitchValue p) 7 = p.toInt / 128 := rfl
  rw [noteOf, hasr, BitVec.toInt_ofInt]
  exact Int.bmod_eq_of_le (by omega) (by omega)

theorem oscInitValue_inv (P : Params) : (oscInitValue P).Inv P :=
  { rng_ne := P.oscRngReset_ne_zero
    pitch_min := P.oscPitchMin_le_reset
    pitch_max := P.oscPitchReset_le_max
    note_eq := noteOf_toInt_eq_div P.oscPitchReset
    increment_fresh := fun hdirty => by cases hdirty }

/-- A pitch written without making the increment stale is the pitch that was there (R251). -/
theorem withPitch_inv {o : Osc} {p : Half} (hmin : P.oscPitchMin.toInt ≤ p.toInt)
    (hmax : p.toInt ≤ P.oscPitchMax.toInt) (ho : o.Inv P) : (withPitch p o).Inv P :=
  { rng_ne := ho.rng_ne
    pitch_min := hmin
    pitch_max := hmax
    note_eq := noteOf_toInt_eq_div p
    increment_fresh := fun hdirty => by
      obtain ⟨hold, hsame⟩ : o.dirty = false ∧ p = o.pitch := by simpa [withPitch] using hdirty
      subst hsame
      exact ho.increment_fresh hold }

theorem oscSetPitch_effect (P : Params) (p : Half) (s : State) : Effect P (.oscSetPitch p) s (oscSetPitch P p s) := by
  unfold oscSetPitch
  split
  · exact .raises _ _
  · next hrange =>
    obtain ⟨hmin, hmax⟩ := not_or.mp hrange
    exact .setsOsc (withPitch_inv (not_lt.mp hmin) (not_lt.mp hmax))

theorem oscSetShape_effect (shape : Byte) (s : State) : Effect P (.oscSetShape shape) s (oscSetShape shape s) := by
  unfold oscSetShape
  split
  · exact .setsOsc fun ho => { ho with }
  · exact .raises _ _

/-- The gate can only make the increment stale (R253). -/
theorem withGate_inv {o : Osc} (g : Bool) (ho : o.Inv P) : (withGate g o).Inv P :=
  { ho with increment_fresh := fun hdirty => ho.increment_fresh (Bool.or_eq_false_iff.mp hdirty).1 }

theorem oscSetGate_effect (g : Byte) (s : State) : Effect P (.oscSetGate g) s (oscSetGate g s) := by
  unfold oscSetGate
  split
  · exact .setsOsc (withGate_inv false)
  · exact .setsOsc (withGate_inv true)
  · exact .raises _ _

/-- The lazy recompute leaves the increment of the pitch for the class of the shape (R255, R257). -/
theorem recompute_inv {o : Osc} (ho : o.Inv P) : (recompute P o).Inv P := by
  unfold recompute
  split
  · exact { ho with increment_fresh := fun _ => ⟨isNoise o.shape, rfl⟩ }
  · exact ho

theorem shapeSample_inv (shape : Shape) (o : Osc) (ho : o.Inv P) : (shapeSample P shape o).Inv P := by
  obtain ⟨-, -, hpitch, hnote, -, hinc, hdirty⟩ := shapeSample_settings P shape o
  exact
    { rng_ne := shapeSample_rng_ne P shape o ho.rng_ne
      pitch_min := by rw [hpitch]; exact ho.pitch_min
      pitch_max := by rw [hpitch]; exact ho.pitch_max
      note_eq := by rw [hpitch, hnote]; exact ho.note_eq
      increment_fresh := by rw [hpitch, hinc, hdirty]; exact ho.increment_fresh }

theorem silenceSample_inv (o : Osc) (ho : o.Inv P) : (silenceSample o).Inv P := { ho with }

/-- A render that starts from the oscillator `o` and for whose samples the FIFO has room. -/
theorem renderSamples_effect {i : Instr} {next : Osc → Osc} {n : Nat} {o : Osc} {s : State}
    (hnext : ∀ o : Osc, o.Inv P → (next o).Inv P) (ho : s.osc.Inv P → o.Inv P) (hroom : n ≤ fifoFree P s) :
    Effect P i s (renderSamples next n (setOsc o s)) := by
  rw [renderSamples_eq]
  refine .renders (fun hs => Function.Iterate.rec (Osc.Inv P) (ho hs) hnext n) fun hle => ?_
  have htotal := fifoFree_add_length hle
  simp only [List.length_append, List.length_map, List.length_range]
  omega

theorem oscRender_effect (P : Params) (s : State) : Effect P .oscRender s (oscRender P s) := by
  unfold oscRender
  split
  · exact .raises _ _
  · next hroom =>
    split
    · exact renderSamples_effect (shapeSample_inv s.osc.shape) recompute_inv (not_lt.mp hroom)
    · exact renderSamples_effect (o := s.osc) silenceSample_inv id (not_lt.mp hroom)

/-! ### READ, RND_SEED, and every command -/

theorem readRegister_effect (reg : Byte) (s : State) : Effect P (.read reg) s (readRegister reg s) := by
  unfold readRegister
  split
  · exact .answers rfl _
  · exact .raises _ _

theorem rndSeed_effect (v : Half) (s : State) : Effect P (.rndSeed v) s (rndSeed v s) := by
  unfold rndSeed
  split
  · exact .raises _ _
  · next hv => exact .setsRnd fun _ => hv

/-- Every command takes its state to the next one by one of the effects. -/
theorem exec_effect {i : Instr} {s t : State} (h : exec i s = .next t) : Effect Config.params i s t := by
  cases i <;> cases h
  case read reg => exact readRegister_effect reg s
  case rndSeed v => exact rndSeed_effect v s
  case rndUpdate => exact .setsRnd galoisStep_ne_zero
  case rndState | rndByte | clkRising | clkFallen | clkLocked | pgState | pgStep => exact .answers rfl _
  case clkInit => exact .setsClk fun _ => clkInitValue_inv _
  case clkUpdate res bpm => exact clkUpdate_effect _ res bpm s
  case clkTick => exact .setsClk tickClk_inv
  case clkWrap amount => exact clkWrap_effect amount s
  case clkReset | clkLock | clkUnlock => exact .setsClk fun hc => { hc with }
  case pgInit => exact .setsPg fun _ => pgInitValue_inv _
  case pgReset => exact .setsPg resetPg_inv
  case pgTick n => exact pgTick_effect _ n s
  case pgSet idx v => exact pgSet_effect idx v s
  case oscInit => exact .setsOsc fun _ => oscInitValue_inv _
  case oscSetPitch p => exact oscSetPitch_effect _ p s
  case oscSetShape shape => exact oscSetShape_effect shape s
  case oscSetGate g => exact oscSetGate_effect g s
  case oscSetPw w => exact .setsOsc fun ho => { ho with }
  case oscRender => exact oscRender_effect _ s

/-- Settles O10: of the effects a command can have, only the answer of a query writes `RESP` (R31). -/
theorem onlyQueriesWriteResp : Obligations.OnlyQueriesWriteResp := by
  intro i s t hquery hexec
  cases exec_effect hexec with
  | answers hanswers v => rw [hquery] at hanswers; cases hanswers
  | raises | setsRnd | setsClk | setsPg | ticks | setsOsc | renders => rfl

end Sys2Proof.CommandEffects
end

section
/-! The invariant of the reachable states (Machine/Safety.lean): reset meets it and every step keeps it. Its register
part follows from a command's effect, its latch part from the causes a command can raise. -/

namespace Sys2Proof.ReachableInvariant

open Sys2Proof.Machine Sys2Proof.Rules Sys2Proof.Laws Sys2Proof.FaultLatch Sys2Proof.CommandEffects

/-- The part of `State.Inv` that speaks of the units' registers and the FIFO. -/
structure RegistersInv (P : Params) (s : State) : Prop where
  rnd_ne : s.rnd ≠ 0
  clk : s.clk.Inv P
  pg : s.pg.Inv
  osc : s.osc.Inv P
  fifo_le : s.fifo.length ≤ P.fifoDepth

/-- The part of `State.Inv` that speaks of the fault latch (R32, R293). -/
structure LatchInv (s : State) : Prop where
  clear : s.fault = false → s.cause = 0 ∧ s.faultCmd = 0
  named : s.fault = true → ∃ c ∈ wordCauses s.faultCmd, s.cause = causeCode c

theorem inv_iff {P : Params} {s : State} : s.Inv P ↔ RegistersInv P s ∧ LatchInv s :=
  ⟨fun h => ⟨{ h with }, ⟨h.latch_clear, h.latch_set⟩⟩, fun ⟨hreg, hlatch⟩ =>
    { hreg with latch_clear := hlatch.clear, latch_set := hlatch.named }⟩

variable {P : Params} {s t : State}

/-! ### Commands -/

theorem registersInv_of_effect {i : Instr} (hs : RegistersInv P s) (h : Effect P i s t) : RegistersInv P t := by
  cases h with
  | raises c cmd => exact { hs with }
  | answers hquery v => exact { hs with }
  | setsRnd hrnd => exact { hs with rnd_ne := hrnd hs.rnd_ne }
  | setsClk hclk => exact { hs with clk := hclk hs.clk }
  | setsPg hpg => exact { hs with pg := hpg hs.pg }
  | ticks hrnd hpg => exact { hs with rnd_ne := hrnd hs.rnd_ne, pg := hpg hs.pg }
  | setsOsc hosc => exact { hs with osc := hosc hs.osc }
  | renders hosc hfit => exact { hs with osc := hosc hs.osc, fifo_le := hfit hs.fifo_le }

theorem latchInv_raise {c : Cause} {w : Word} (hc : c ∈ wordCauses w) : LatchInv (raise c w s) :=
  ⟨(fun hclear => by cases hclear), fun _ => ⟨c, hc, rfl⟩⟩

theorem latchInv_of_sameLatch (hs : LatchInv s) (h : SameLatch s t) : LatchInv t := by
  obtain ⟨hfault, hcause, hcmd⟩ := h
  exact ⟨by rw [hfault, hcause, hcmd]; exact hs.clear, by rw [hfault, hcause, hcmd]; exact hs.named⟩

theorem inv_raise {c : Cause} {w : Word} (hs : s.Inv P) (hc : c ∈ wordCauses w) : (raise c w s).Inv P :=
  inv_iff.mpr ⟨{ hs with }, latchInv_raise hc⟩

/-- A command performed for a word that decodes to it: its own word, which it would raise a cause with, is that word. -/
theorem exec_keeps_inv {w : Word} {i : Instr} (hs : s.Inv Config.params) (hd : decode w = .ok i)
    (h : exec i s = .next t) : t.Inv Config.params := by
  rcases exec_latch h with ⟨c, hc, rfl⟩ | hsame
  · rw [encode_of_decode hd]
    exact inv_raise hs (by rwa [wordCauses_of_decode hd])
  · obtain ⟨hreg, hlatch⟩ := inv_iff.mp hs
    exact inv_iff.mpr ⟨registersInv_of_effect hreg (exec_effect h), latchInv_of_sameLatch hlatch hsame⟩

theorem performWord_keeps_inv {w : Word} (hs : s.Inv Config.params) (h : performWord w s = .next t) :
    t.Inv Config.params := by
  rcases performWord_cases h with ⟨-, hout⟩ | ⟨-, hd, hout⟩ | ⟨-, hd, hout⟩ | ⟨i, -, hd, hout⟩
  · cases hout; exact hs
  · cases hout; exact inv_raise hs (by simp [wordCauses_of_illegal hd])
  · cases hout; exact inv_raise hs (by simp [wordCauses_of_reserved hd])
  · exact exec_keeps_inv hs hd hout.symm

/-! ### The host's other actions, and reset -/

/-- The invariant does not read the host's own list. -/
theorem inv_setHost (hs : s.Inv P) (rest : List HostAction) : (setHost rest s).Inv P := { hs with }

theorem resetWith_inv (P : Params) : (resetWith P).Inv P :=
  { rnd_ne := P.rndSeedReset_ne_zero
    clk := clkInitValue_inv P
    pg := pgInitValue_inv P
    osc := oscInitValue_inv P
    fifo_le := Nat.zero_le _
    latch_clear := fun _ => ⟨rfl, rfl⟩
    latch_set := fun hset => by cases hset }

/-- Settles O2: the constraints of R8 on the parameters are what the reset values need. -/
theorem resetMeetsTheInvariant : Obligations.ResetMeetsTheInvariant := resetWith_inv Config.params

/-- Settles O3, by the cases of a step: a word performed keeps the invariant, a removal only shortens the FIFO, reset
meets it anew, and idling and port reads change nothing it speaks of. -/
theorem everyStepKeepsTheInvariant : Obligations.EveryStepKeepsTheInvariant := by
  intro s t hs hstep
  rcases step_cases hstep with ⟨-, rfl⟩ | ⟨w, rest, -, hword⟩ | ⟨p, rest, -, rfl⟩ |
    ⟨v, fifo, rest, -, hfifo, rfl⟩ | ⟨rest, -, rfl⟩
  · exact hs
  · exact performWord_keeps_inv (inv_setHost hs rest) hword
  · exact inv_setHost hs rest
  · have hlen : fifo.length ≤ s.fifo.length := by simp [hfifo]
    exact { inv_setHost hs rest with fifo_le := hlen.trans hs.fifo_le }
  · exact inv_setHost (resetWith_inv Config.params) rest

end Sys2Proof.ReachableInvariant
end

section
/-! The lock reaches no command but CLK_LOCKED and READ 0x24 (R40, R165): replacing `CLK.locked` commutes with every
command that neither reads nor writes it. -/

namespace Sys2Proof.LockFree

open Sys2Proof.Machine Sys2Proof.Laws

/-- The state with `CLK.locked` replaced. -/
def withLock (b : Bool) (s : State) : State := { s with clk := { s.clk with locked := b } }

/-- The commands that write `CLK.locked` (R160, R165, R166). -/
abbrev WritesLock (i : Instr) : Prop := i = .clkInit ∨ i = .clkLock ∨ i = .clkUnlock

variable (b : Bool) (s : State)

theorem registerValue_withLock {reg : Byte} (hreg : reg ≠ 0x24) :
    registerValue reg (withLock b s) = registerValue reg s := by
  unfold registerValue
  split
  case h_6 => exact absurd rfl hreg
  all_goals rfl

theorem readRegister_withLock {reg : Byte} (hreg : reg ≠ 0x24) :
    readRegister reg (withLock b s) = withLock b (readRegister reg s) := by
  unfold readRegister
  rw [registerValue_withLock b s hreg]
  split <;> rfl

theorem rndSeed_withLock (v : Half) : rndSeed v (withLock b s) = withLock b (rndSeed v s) := by
  unfold rndSeed
  split <;> rfl

theorem clkUpdate_withLock (P : Params) (res : Byte) (bpm : Half) :
    clkUpdate P res bpm (withLock b s) = withLock b (clkUpdate P res bpm s) := by
  unfold clkUpdate
  split
  · rfl
  · split <;> rfl

theorem wrapClk_withLock (amount : Int) (c : Clk) :
    wrapClk amount { c with locked := b } = { wrapClk amount c with locked := b } := by
  by_cases hzero : amount = 0
  · simp only [wrapClk, if_pos hzero]
  · simp only [wrapClk, if_neg hzero]

theorem clkWrap_withLock (amount : Byte) : clkWrap amount (withLock b s) = withLock b (clkWrap amount s) := by
  unfold clkWrap
  split
  · rfl
  · exact congrArg (setClk · s) (wrapClk_withLock b (swingAmount amount) s.clk)

theorem pgSet_withLock (idx v : Byte) : pgSet idx v (withLock b s) = withLock b (pgSet idx v s) := by
  unfold pgSet
  split <;> rfl

theorem oscSetPitch_withLock (P : Params) (p : Half) :
    oscSetPitch P p (withLock b s) = withLock b (oscSetPitch P p s) := by
  unfold oscSetPitch
  split <;> rfl

theorem oscSetShape_withLock (shape : Byte) :
    oscSetShape shape (withLock b s) = withLock b (oscSetShape shape s) := by
  unfold oscSetShape
  split <;> rfl

theorem oscSetGate_withLock (g : Byte) : oscSetGate g (withLock b s) = withLock b (oscSetGate g s) := by
  unfold oscSetGate
  split <;> rfl

theorem renderSamples_withLock (next : Osc → Osc) (n : Nat) :
    renderSamples next n (withLock b s) = withLock b (renderSamples next n s) := by
  rw [renderSamples_eq, renderSamples_eq]; rfl

theorem oscRender_withLock (P : Params) : oscRender P (withLock b s) = withLock b (oscRender P s) := by
  unfold oscRender
  rw [apply_ite (withLock b), apply_ite (withLock b), ← renderSamples_withLock, ← renderSamples_withLock]
  rfl

variable {b s}

/-- A command that neither reads nor writes the lock does the same under any lock, and keeps it. -/
theorem exec_withLock {i : Instr} {t : State} (hlocked : i ≠ .clkLocked) (hread : i ≠ .read 0x24)
    (hkeeps : ¬ WritesLock i) (h : exec i s = .next t) : exec i (withLock b s) = .next (withLock b t) := by
  cases i <;> cases h
  case clkLocked => exact absurd rfl hlocked
  case clkInit => exact absurd (.inl rfl) hkeeps
  case clkLock => exact absurd (.inr (.inl rfl)) hkeeps
  case clkUnlock => exact absurd (.inr (.inr rfl)) hkeeps
  case read reg => exact congrArg _ (readRegister_withLock b s fun hreg => hread (congrArg _ hreg))
  case rndSeed v => exact congrArg _ (rndSeed_withLock b s v)
  case clkUpdate res bpm => exact congrArg _ (clkUpdate_withLock b s _ res bpm)
  case clkWrap amount => exact congrArg _ (clkWrap_withLock b s amount)
  case pgSet idx v => exact congrArg _ (pgSet_withLock b s idx v)
  case oscSetPitch p => exact congrArg _ (oscSetPitch_withLock b s _ p)
  case oscSetShape shape => exact congrArg _ (oscSetShape_withLock b s shape)
  case oscSetGate g => exact congrArg _ (oscSetGate_withLock b s g)
  case oscRender => exact congrArg _ (oscRender_withLock b s _)
  all_goals rfl

/-- A command that writes the lock gives the same next state under any lock. -/
theorem exec_withLock_of_writes {i : Instr} (h : WritesLock i) : exec i (withLock b s) = exec i s := by
  rcases h with rfl | rfl | rfl <;> rfl

/-- Settles O13: the three commands that write the lock forget the old one, and every other one carries it along. -/
theorem noOtherCommandDependsOnTheLock : Obligations.NoOtherCommandDependsOnTheLock := by
  intro i s t b hlocked hread hexec
  by_cases hwrites : WritesLock i
  · rw [if_pos hwrites]
    exact (exec_withLock_of_writes hwrites).trans hexec
  · rw [if_neg hwrites]
    exact exec_withLock hlocked hread hwrites hexec

end Sys2Proof.LockFree
end

section
/-! PG_TICK reads `output_clock` and `output_mode` of the options and no other field (R43): replacing the options by
others with the same two commutes with each part of the tick. -/

namespace Sys2Proof.StoredOptions

open Sys2Proof.Machine Sys2Proof.Laws

/-- The PG registers with the options replaced. -/
def withOptions (o : Options) (pg : Pg) : Pg := { pg with options := o }

variable {o : Options} {pg : Pg}

theorem drawPerturbations_withOptions (rnd : Half) :
    drawPerturbations rnd (withOptions o pg) = withOptions o (drawPerturbations rnd pg) := by
  unfold drawPerturbations
  rw [apply_ite (withOptions o)]
  rfl

theorem drawPerturbations_options (rnd : Half) (pg : Pg) : (drawPerturbations rnd pg).options = pg.options := by
  unfold drawPerturbations
  split <;> rfl

theorem writeDrums_withOptions (P : Params) (hclock : o.outputClock = pg.options.outputClock) :
    writeDrums P (withOptions o pg) = withOptions o (writeDrums P pg) := by
  unfold writeDrums
  rw [← hclock]
  rfl

theorem evaluateDrums_withOptions (P : Params) (rnd : Half) (hclock : o.outputClock = pg.options.outputClock) :
    evaluateDrums P rnd (withOptions o pg) = withOptions o (evaluateDrums P rnd pg) := by
  unfold evaluateDrums
  rw [drawPerturbations_withOptions, writeDrums_withOptions P (by rw [drawPerturbations_options, hclock])]

theorem evaluateEuclidean_withOptions (P : Params) (hclock : o.outputClock = pg.options.outputClock) :
    evaluateEuclidean P (withOptions o pg) = withOptions o (evaluateEuclidean P pg) := by
  unfold evaluateEuclidean
  rw [← hclock]
  rfl

theorem evaluateBody_withOptions (P : Params) (rnd : Half) (hclock : o.outputClock = pg.options.outputClock)
    (hmode : o.outputMode = pg.options.outputMode) :
    evaluateBody P rnd (withOptions o pg) = withOptions o (evaluateBody P rnd pg) := by
  unfold evaluateBody
  rw [show (withOptions o pg).options.outputMode = pg.options.outputMode from hmode, apply_ite (withOptions o)]
  refine if_congr Iff.rfl rfl ?_
  cases pg.options.outputMode with
  | drums => exact evaluateDrums_withOptions P rnd hclock
  | euclidean =>
    rw [apply_ite (withOptions o)]
    exact if_congr Iff.rfl rfl (evaluateEuclidean_withOptions P hclock)

/-- The pulses are counted without a look at the options. -/
theorem advancePulses_withOptions (total : Nat) (o : Options) (pg : Pg) :
    advancePulses total (withOptions o pg) = withOptions o (advancePulses total pg) := by
  have hstep : Function.Commute advanceStep (withOptions o) := fun _ => rfl
  rw [advancePulses_eq, advancePulses_eq, (hstep.iterate_left (total / 3)).eq pg]
  rfl

/-- The tick of the replaced options is the tick with its options replaced. -/
theorem pgTick_withOptions (P : Params) (n : Byte) {s : State} (hclock : o.outputClock = s.pg.options.outputClock)
    (hmode : o.outputMode = s.pg.options.outputMode) :
    pgTick P n (setPg (withOptions o s.pg) s) = setPg (withOptions o (pgTick P n s).pg) (pgTick P n s) := by
  have hbody := evaluateBody_withOptions (pg := refreshPg (galoisStep s.rnd) s.pg) P (galoisStep s.rnd) hclock hmode
  have hpulses := (congrArg (advancePulses (s.pg.pulse.toNat + n.toNat)) hbody).trans (advancePulses_withOptions _ o _)
  exact congrArg (setPg · (setRnd (galoisStep s.rnd) s)) hpulses

/-- Settles O43: each part of PG_TICK commutes with replacing the options. -/
theorem storedOnlyOptionsDoNotReachATick : Obligations.StoredOnlyOptionsDoNotReachATick := by
  intro n o s t hclock hmode hexec
  cases hexec
  exact congrArg Host.Outcome.next (pgTick_withOptions Config.params n hclock hmode)

end Sys2Proof.StoredOptions
end

section
/-! The host's side of the CORE (R92, R304, R305): what each port shows, and what each action other than a command
does. -/

namespace Sys2Proof.HostSide

open Sys2Proof.Machine Sys2Proof.Laws

/-- A step takes the first action off the host's list and performs it. -/
theorem step_takes (a : HostAction) (rest : List HostAction) (s : State) :
    step (setHost (a :: rest) s) = takeAction a (setHost rest s) := rfl

/-- With no action to take the CORE holds its state (R304). -/
theorem step_idle (s : State) : step (setHost [] s) = .next (setHost [] s) := rfl

theorem removeSample_cons (v : Sample) (samples : List Sample) (s : State) :
    removeSample { s with fifo := v :: samples } = .next { s with fifo := samples } := rfl

theorem removeSample_nil (s : State) : removeSample { s with fifo := [] } = .fault .removeFromEmptyFifo := rfl

/-- Reset takes the reset values, whatever the state, and keeps the host's list (R320). -/
theorem resetCore_eq (P : Params) (s : State) : resetCore P s = setHost s.host (resetWith P) := rfl

/-! What the four ports show (R31, R32, R33, R88, R305). -/

theorem portValue_response (P : Params) (s : State) : portValue P .response s = .response s.resp := rfl

theorem portValue_status (P : Params) (s : State) :
    portValue P .status s = .status ⟨s.fault, s.cause, s.faultCmd, P.fifoDepth - s.fifo.length⟩ := rfl

theorem portValue_pattern (P : Params) (s : State) : portValue P .pattern s = .pattern s.pg.state := rfl

/-- The sample head shows the oldest sample, and none of an empty FIFO (R88). -/
theorem portValue_sampleHead (P : Params) (s : State) : portValue P .sampleHead s = .sampleHead s.fifo.head? := rfl

/-- Settles O7: the ports by what each is defined to show, the actions by what `step` does with the first of them. -/
theorem hostActionsAtTheBoundary : Obligations.HostActionsAtTheBoundary := by
  intro s rest p v samples
  refine ⟨portValue_response _ s, portValue_status _ s, portValue_pattern _ s, portValue_sampleHead _ _,
    portValue_sampleHead _ _, ?readPort, ?remove, ?removeEmpty, ?reset, step_idle s⟩
  case readPort => exact step_takes (.readPort p) rest s
  case remove =>
    exact (step_takes .removeSample rest { s with fifo := v :: samples }).trans
      (removeSample_cons v samples (setHost rest s))
  case removeEmpty =>
    exact (step_takes .removeSample rest { s with fifo := [] }).trans (removeSample_nil (setHost rest s))
  case reset =>
    exact (step_takes .reset rest s).trans (congrArg Host.Outcome.next (resetCore_eq Config.params (setHost rest s)))

end Sys2Proof.HostSide
end

section
/-! The FIFO along a command (spec/20_memory.md R88, spec/43_oscillator.md R255): a render appends a block or faults,
and no other command touches the FIFO. -/

namespace Sys2Proof.FifoGrowth

open Sys2Proof.Machine Sys2Proof.Laws

variable (P : Params) (s : State)

/-! ### The commands whose effect depends on their operands -/

theorem readRegister_fifo (reg : Byte) : (readRegister reg s).fifo = s.fifo := by
  unfold readRegister
  split <;> rfl

theorem rndSeed_fifo (v : Half) : (rndSeed v s).fifo = s.fifo := by
  unfold rndSeed
  split <;> rfl

theorem clkUpdate_fifo (res : Byte) (bpm : Half) : (clkUpdate P res bpm s).fifo = s.fifo := by
  unfold clkUpdate
  split
  · rfl
  · split <;> rfl

theorem clkWrap_fifo (amount : Byte) : (clkWrap amount s).fifo = s.fifo := by
  unfold clkWrap
  split <;> rfl

theorem pgSet_fifo (idx v : Byte) : (pgSet idx v s).fifo = s.fifo := by
  unfold pgSet
  split <;> rfl

theorem oscSetPitch_fifo (p : Half) : (oscSetPitch P p s).fifo = s.fifo := by
  unfold oscSetPitch
  split <;> rfl

theorem oscSetShape_fifo (shape : Byte) : (oscSetShape shape s).fifo = s.fifo := by
  unfold oscSetShape
  split <;> rfl

theorem oscSetGate_fifo (g : Byte) : (oscSetGate g s).fifo = s.fifo := by
  unfold oscSetGate
  split <;> rfl

/-! ### The render, and every command -/

/-- `t` has the FIFO of `s` with `n` samples appended. -/
def AppendsSamples (n : Nat) (s t : State) : Prop := ∃ added, t.fifo = s.fifo ++ added ∧ added.length = n

theorem renderSamples_appends (next : Osc → Osc) (n : Nat) : AppendsSamples n s (renderSamples next n s) := by
  rw [renderSamples_eq]
  exact ⟨_, rfl, by simp⟩

/-- A render that does not fault on a full buffer appends one block, with the gate open or closed (R255). -/
theorem oscRender_fifo : (oscRender P s).fifo = s.fifo ∨ AppendsSamples P.oscBlock s (oscRender P s) := by
  unfold oscRender
  split
  · exact .inl rfl
  · split
    · exact .inr (renderSamples_appends (setOsc (recompute P s.osc) s) _ _)
    · exact .inr (renderSamples_appends s _ _)

variable {s}

theorem exec_fifo_of_ne_oscRender {i : Instr} {t : State} (hrender : i ≠ .oscRender) (h : exec i s = .next t) :
    t.fifo = s.fifo := by
  cases i <;> cases h
  case oscRender => exact absurd rfl hrender
  case read reg => exact readRegister_fifo s reg
  case rndSeed v => exact rndSeed_fifo s v
  case clkUpdate res bpm => exact clkUpdate_fifo _ s res bpm
  case clkWrap amount => exact clkWrap_fifo s amount
  case pgSet idx v => exact pgSet_fifo s idx v
  case oscSetPitch p => exact oscSetPitch_fifo _ s p
  case oscSetShape shape => exact oscSetShape_fifo s shape
  case oscSetGate g => exact oscSetGate_fifo s g
  all_goals rfl

/-- Settles O11: a render appends one block or, faulting, nothing; every other command keeps the FIFO. -/
theorem commandsOnlyAppendToTheFifo : Obligations.CommandsOnlyAppendToTheFifo := by
  intro i s t hexec
  have kept (h : t.fifo = s.fifo) : ∃ added, t.fifo = s.fifo ++ added ∧
      (added ≠ [] → i = .oscRender ∧ added.length = Config.params.oscBlock) := ⟨[], by simp [h], by simp⟩
  by_cases hrender : i = .oscRender
  · subst hrender
    cases hexec
    rcases oscRender_fifo Config.params s with hsame | ⟨added, happended, hlength⟩
    · exact kept hsame
    · exact ⟨added, happended, fun _ => ⟨rfl, hlength⟩⟩
  · exact kept (exec_fifo_of_ne_oscRender hrender hexec)

end Sys2Proof.FifoGrowth
end

section
/-! `ComputePhaseIncrement` in closed form (spec/43_oscillator.md R257), for the pitches the table serves (R86): the
fold ends in the reference octave, where the interpolation reads two of the 97 entries and gives a u24. -/

namespace Sys2Proof.PhaseIncrement

open Sys2Proof.Machine Sys2Proof.Rules Sys2Proof.Laws

variable {P : Params}

/-! ### The octave fold -/

theorem reference_le_folded (P : Params) (pitch : Int) : P.oscRefPitch.toInt ≤ pitch + 1536 * octaves P pitch := by
  unfold octaves
  omega

/-- No more octaves than needed: a pitch the table serves is not folded past the reference octave. -/
theorem folded_le_reference {pitch : Int} (htable : pitch ≤ P.oscRefPitch.toInt + 1535) :
    pitch + 1536 * octaves P pitch ≤ P.oscRefPitch.toInt + 1535 := by
  unfold octaves
  omega

/-- The number of octaves that folds a pitch into the reference octave is the closed form's. -/
theorem octaves_eq {pitch : Int} {k : Nat} (hreach : P.oscRefPitch.toInt ≤ pitch + 1536 * k)
    (hbelow : pitch + 1536 * k < P.oscRefPitch.toInt + 1536) : octaves P pitch = k := by
  unfold octaves
  omega

/-- The loop folds a pitch the table serves by its octaves. -/
theorem foldUp_eq_octaves {pitch : Half} (htable : pitch.toInt ≤ P.oscRefPitch.toInt + 1535) :
    foldUp P.oscRefPitch.toInt foldFuel pitch.toInt 0 =
      (pitch.toInt + 1536 * octaves P pitch.toInt, octaves P pitch.toInt) := by
  obtain ⟨k, hfold, hreach, hbelow⟩ :=
    foldUp_spec P.oscRefPitch.toInt foldFuel pitch.toInt 0 (foldFuel_enough P.oscRefPitch pitch)
  have hoctaves : octaves P pitch.toInt = k := by
    rcases Nat.eq_zero_or_pos k with rfl | hpos
    · exact octaves_eq hreach (by omega)
    · exact octaves_eq hreach (hbelow hpos.ne')
  rw [hfold, hoctaves, Nat.zero_add]

/-! ### The interpolated table value -/

theorem incTableEntry_eq_incEntry {k : Nat} (hk : k < 97) : (incTableEntry P k : Int) = incEntry P k := by
  have hindex : (⟨k, hk⟩ : Fin 97) = Fin.ofNat 97 k := Fin.ext (Nat.mod_eq_of_lt hk).symm
  rw [incTableEntry, dif_pos hk, incEntry, hindex]

theorem incTableEntry_lt (P : Params) (k : Nat) : incTableEntry P k < 2 ^ 24 := by
  unfold incTableEntry
  split <;> exact BitVec.isLt _

/-- Within the reference octave both entries read are among the 97. -/
theorem incAt_eq {k : Nat} (hk : k ≤ 1535) :
    incAt P k =
      (incEntry P (k / 16) + (incEntry P (k / 16 + 1) - incEntry P (k / 16)) * (k % 16 : Nat) / 16).toNat := by
  have hlow := incTableEntry_eq_incEntry (P := P) (k := k / 16) (by omega)
  have hhigh := incTableEntry_eq_incEntry (P := P) (k := k / 16 + 1) (by omega)
  rw [incAt, lerp, hlow, hhigh]
  rfl

/-- The interpolated value lies between two u24 entries, so the increment register holds it. -/
theorem incAt_lt (P : Params) (k : Nat) : incAt P k < 2 ^ 24 := by
  have hlow := incTableEntry_lt P (k / 16)
  have hhigh := incTableEntry_lt P (k / 16 + 1)
  obtain ⟨-, hle⟩ := lerp_between (incTableEntry P (k / 16)) (incTableEntry P (k / 16 + 1))
    (show k % 16 < 2 ^ 4 by omega)
  unfold incAt
  omega

/-! ### The increment -/

/-- The shifted value still fits the register, so nothing is lost in narrowing it. -/
theorem computePhaseIncrement_toNat {pitch : Half} (noise : Bool)
    (htable : pitch.toInt ≤ P.oscRefPitch.toInt + 1535) :
    (computePhaseIncrement P pitch noise).toNat =
      incAt P (pitch.toInt + 1536 * octaves P pitch.toInt - P.oscRefPitch.toInt).toNat /
        2 ^ (if noise then octaves P pitch.toInt - 1 else octaves P pitch.toInt) := by
  unfold computePhaseIncrement pitchValue
  rw [foldUp_eq_octaves htable, BitVec.toNat_ofNat, Nat.shiftRight_eq_div_pow]
  exact Nat.mod_eq_of_lt ((Nat.div_le_self _ _).trans_lt (incAt_lt P _))

/-- Settles O58: the fold ends in the reference octave, and there the interpolation is the closed form's. -/
theorem phaseIncrementFoldsByOctaves : Obligations.PhaseIncrementFoldsByOctaves := by
  intro P pitch noise htable
  have hreach := reference_le_folded P pitch.toInt
  have hfewest := folded_le_reference htable
  refine ⟨?closedForm, hreach, hfewest⟩
  rw [computePhaseIncrement_toNat noise htable, incAt_eq (by omega)]
  rfl

end Sys2Proof.PhaseIncrement
end

section
/-! The decoder by its classes, and the encoder's words (spec/30_encoding.md R101 to R108): a word is the three fields it
is made of, so a mask splits into one mask per field, and the rows of the opcode table are the rows of the opcode
map. -/

namespace Sys2Proof.WordClasses

open Sys2Proof.Machine Sys2Proof.Rules Sys2Proof.Laws Sys2Proof.FaultLatch

/-! ### Words as three fields (R101) -/

/-- Masking a word masks its fields. -/
theorem commandWord_and (opc b opc' b' : Byte) (h h' : Half) :
    commandWord opc b h &&& commandWord opc' b' h' = commandWord (opc &&& opc') (b &&& b') (h &&& h') := by
  calc commandWord opc b h &&& commandWord opc' b' h'
      = (opc ++ b &&& (opc' ++ b')) ++ (h &&& h') := BitVec.and_append
    _ = commandWord (opc &&& opc') (b &&& b') (h &&& h') := congrArg (· ++ (h &&& h')) BitVec.and_append

/-- A word under a mask given by its fields. -/
theorem and_commandWord (w : Word) (opc b : Byte) (h : Half) :
    w &&& commandWord opc b h = commandWord (opcField w &&& opc) (bField w &&& b) (hField w &&& h) := by
  rw [← commandWord_and, commandWord_fields]

theorem commandWord_inj {opc b opc' b' : Byte} {h h' : Half} :
    commandWord opc b h = commandWord opc' b' h' ↔ opc = opc' ∧ b = b' ∧ h = h' := by
  constructor
  · intro heq
    have hopc := congrArg opcField heq
    have hb := congrArg bField heq
    have hh := congrArg hField heq
    simp only [opcField_commandWord, bField_commandWord, hField_commandWord] at hopc hb hh
    exact ⟨hopc, hb, hh⟩
  · rintro ⟨rfl, rfl, rfl⟩; rfl

/-- No format reserves a bit of the opcode (R102). -/
theorem reservedMask_fields (f : Format) :
    reservedMask f = commandWord 0 (bField (reservedMask f)) (hField (reservedMask f)) := by
  cases f <;> decide

/-- The converse of `FaultLatch.fieldsClear_of_reserved`: the word of clear fields has clear reserved bits. -/
theorem reserved_of_fieldsClear {f : Format} {b : Byte} {h : Half} (opc : Byte) (hclear : FieldsClear f b h) :
    commandWord opc b h &&& reservedMask f = 0 := by
  have hfields : b &&& bField (reservedMask f) = 0 ∧ h &&& hField (reservedMask f) = 0 := by
    cases f with
    | N => obtain ⟨rfl, rfl⟩ := hclear; exact ⟨BitVec.zero_and, BitVec.zero_and⟩
    | B => obtain rfl := hclear; exact ⟨BitVec.and_zero, BitVec.zero_and⟩
    | H => obtain rfl := hclear; exact ⟨BitVec.zero_and, BitVec.and_zero⟩
    | BH => exact ⟨BitVec.and_zero, BitVec.and_zero⟩
    | BV =>
      refine ⟨BitVec.and_zero, ?_⟩
      have hmask : hField (reservedMask .BV) = (0xFF : Byte) ++ (0 : Byte) := by decide
      calc h &&& hField (reservedMask .BV)
          = ((0 : Byte) ++ h.extractLsb' 0 8) &&& ((0xFF : Byte) ++ (0 : Byte)) := by
            rw [zero_append_lowByte hclear, hmask]
        _ = ((0 : Byte) &&& 0xFF) ++ (h.extractLsb' 0 8 &&& 0) := BitVec.and_append
        _ = 0 := by rw [show h.extractLsb' 0 8 &&& 0 = 0 from BitVec.and_zero]; rfl
  obtain ⟨hb, hh⟩ := hfields
  rw [reservedMask_fields f, commandWord_and, hb, hh, show opc &&& 0 = 0 from BitVec.and_zero]
  rfl

/-! ### The decoder (R103, R105) -/

variable {w : Word} {f : Format} {build : Byte → Half → Instr}

theorem decode_of_row (hrow : opcodeRow (opcField w) = some (f, build)) :
    decode w =
      if w &&& reservedMask f = 0 then .ok (build (bField w) (hField w)) else .error .reservedField := by
  simp only [decode, hrow]

theorem decode_of_no_row (hrow : opcodeRow (opcField w) = none) : decode w = .error .illegalOpcode := by
  simp only [decode, hrow]

theorem decode_ok_iff :
    (∃ i, decode w = .ok i) ↔
      ∃ f build, opcodeRow (opcField w) = some (f, build) ∧ w &&& reservedMask f = 0 := by
  constructor
  · rintro ⟨i, hi⟩
    obtain ⟨f, build, hrow, hres, -⟩ := decode_ok hi
    exact ⟨f, build, hrow, hres⟩
  · rintro ⟨f, build, hrow, hres⟩
    exact ⟨_, (decode_of_row hrow).trans (if_pos hres)⟩

theorem decode_illegal_iff : decode w = .error .illegalOpcode ↔ opcodeRow (opcField w) = none := by
  refine ⟨fun hd => ?_, decode_of_no_row⟩
  cases hrow : opcodeRow (opcField w) with
  | none => rfl
  | some row =>
    rw [decode_of_row hrow] at hd
    split at hd <;> cases hd

theorem decode_reserved_iff :
    decode w = .error .reservedField ↔
      ∃ f build, opcodeRow (opcField w) = some (f, build) ∧ w &&& reservedMask f ≠ 0 := by
  constructor
  · intro hd
    cases hrow : opcodeRow (opcField w) with
    | none => rw [decode_of_no_row hrow] at hd; cases hd
    | some row =>
      refine ⟨row.1, row.2, rfl, fun hres => ?_⟩
      rw [decode_of_row hrow, if_pos hres] at hd
      cases hd
  · rintro ⟨f, build, hrow, hres⟩
    exact (decode_of_row hrow).trans (if_neg hres)

/-! ### The encoder's words (R103, R104) -/

/-- The word of a row's opcode and of fields that meet its format decodes to the command the row makes of them. -/
theorem decode_commandWord {opc b : Byte} {h : Half} (hrow : opcodeRow opc = some (f, build))
    (hclear : FieldsClear f b h) {i : Instr} (hi : build b h = i) : decode (commandWord opc b h) = .ok i := by
  have hrow' : opcodeRow (opcField (commandWord opc b h)) = some (f, build) := by rwa [opcField_commandWord]
  rw [decode_of_row hrow', if_pos (reserved_of_fieldsClear opc hclear), bField_commandWord, hField_commandWord, hi]

/-- Settles O14: a command's word has its row's opcode and fields that meet the row's format, one case per format. -/
theorem decodeOfEncodeIsTheCommand : Obligations.DecodeOfEncodeIsTheCommand := by
  intro i
  cases i
  case read | clkWrap | pgTick | oscSetShape | oscSetGate | oscSetPw =>
    exact decode_commandWord (f := .B) (by rfl) (by rfl) (by rfl)
  case rndSeed | oscSetPitch => exact decode_commandWord (f := .H) (by rfl) (by rfl) (by rfl)
  case clkUpdate => exact decode_commandWord (f := .BH) (by rfl) trivial (by rfl)
  -- PG_SET alone takes part of `H`: its operand is the lower byte, and the upper one is reserved (R102, R106).
  case pgSet idx v =>
    exact decode_commandWord (f := .BV) (by rfl) BitVec.extractLsb'_append_eq_left
      (congrArg (Instr.pgSet idx) BitVec.extractLsb'_append_eq_right)
  all_goals exact decode_commandWord (f := .N) (by rfl) ⟨rfl, rfl⟩ (by rfl)

/-- Settles O15: an accepted word is its row's opcode and its own fields, and so is the command's word. -/
theorem acceptedWordIsItsCommandsWord : Obligations.AcceptedWordIsItsCommandsWord := fun _ _ => encode_of_decode

/-- Settles O17: the accepted words are the encoder's, written out. -/
theorem writtenWordsDecode : Obligations.WrittenWordsDecode :=
  have accepted := decodeOfEncodeIsTheCommand
  ⟨accepted (.read 0x23), accepted (.rndSeed 0xACE1), accepted (.clkUpdate 2 120), accepted (.clkWrap 0xFB),
    accepted (.pgSet 3 200), accepted (.oscSetPitch 0xFF80), accepted .oscRender,
    decode_of_no_row rfl, decode_reserved_iff.mpr ⟨.N, _, rfl, by decide⟩⟩

/-! ### The opcode table (R102, R104) -/

/-- The `(match, mask)` pair of an opcode's row: the opcode itself, and its own and its format's reserved bits. -/
def tableRow (opc : Byte) : Option (Word × Word) :=
  (opcodeRow opc).map fun row => (commandWord opc 0 0, 0xFF000000 ||| reservedMask row.1)

/-- The opcode table is the opcode map, row by row in the order of the opcodes. -/
theorem opcodeRows_eq : opcodeRows = ((List.range 256).map (BitVec.ofNat 8)).filterMap tableRow := by
  decide

theorem mem_opcodeRows {row : Word × Word} :
    row ∈ opcodeRows ↔
      ∃ opc f build, opcodeRow opc = some (f, build) ∧ row = (commandWord opc 0 0, 0xFF000000 ||| reservedMask f) := by
  have hbyte (opc : Byte) : opc ∈ (List.range 256).map (BitVec.ofNat 8) :=
    List.mem_map.mpr ⟨opc.toNat, List.mem_range.mpr opc.isLt, by simp⟩
  rw [opcodeRows_eq, List.mem_filterMap]
  refine exists_congr fun opc => (and_iff_right (hbyte opc)).trans ?_
  simp only [tableRow, Option.map_eq_some_iff, Prod.exists, eq_comm (b := row)]

/-- A word matches under a row's mask when it has the row's opcode and clear reserved bits. -/
theorem matches_iff {opc : Byte} :
    w &&& (0xFF000000 ||| reservedMask f) = commandWord opc 0 0 ↔ opcField w = opc ∧ w &&& reservedMask f = 0 := by
  have hmask : 0xFF000000 ||| reservedMask f =
      commandWord 0xFF (bField (reservedMask f)) (hField (reservedMask f)) := by cases f <;> decide
  have hmatch : w &&& (0xFF000000 ||| reservedMask f) =
      commandWord (opcField w) (bField w &&& bField (reservedMask f)) (hField w &&& hField (reservedMask f)) := by
    rw [hmask, and_commandWord, show opcField w &&& 0xFF = opcField w from BitVec.and_allOnes]
  have hreserved : w &&& reservedMask f =
      commandWord 0 (bField w &&& bField (reservedMask f)) (hField w &&& hField (reservedMask f)) := by
    conv_lhs => rw [reservedMask_fields f, and_commandWord]
    rw [show opcField w &&& 0 = 0 from BitVec.and_zero]
  rw [hmatch, hreserved, show (0 : Word) = commandWord 0 0 0 from by decide, commandWord_inj, commandWord_inj,
    and_iff_right rfl]

theorem exists_row_matches_iff :
    (∃ row ∈ opcodeRows, w &&& row.2 = row.1) ↔
      ∃ f build, opcodeRow (opcField w) = some (f, build) ∧ w &&& reservedMask f = 0 := by
  constructor
  · rintro ⟨row, hmem, hmatch⟩
    obtain ⟨opc, f, build, hopc, rfl⟩ := mem_opcodeRows.mp hmem
    obtain ⟨rfl, hres⟩ := matches_iff.mp hmatch
    exact ⟨f, build, hopc, hres⟩
  · rintro ⟨f, build, hopc, hres⟩
    exact ⟨_, mem_opcodeRows.mpr ⟨_, f, build, hopc, rfl⟩, matches_iff.mpr ⟨rfl, hres⟩⟩

theorem exists_row_opcode_iff :
    (∃ row ∈ opcodeRows, opcField w = opcField row.1) ↔ ∃ f build, opcodeRow (opcField w) = some (f, build) := by
  constructor
  · rintro ⟨row, hmem, hopcode⟩
    obtain ⟨opc, f, build, hopc, rfl⟩ := mem_opcodeRows.mp hmem
    rw [opcField_commandWord] at hopcode
    exact ⟨f, build, by rw [hopcode, hopc]⟩
  · rintro ⟨f, build, hopc⟩
    exact ⟨_, mem_opcodeRows.mpr ⟨_, f, build, hopc, rfl⟩, (opcField_commandWord ..).symm⟩

theorem opcodeRow_eq_none_iff {opc : Byte} :
    opcodeRow opc = none ↔ ¬ ∃ f build, opcodeRow opc = some (f, build) := by
  cases opcodeRow opc with
  | none => exact ⟨fun _ ⟨_, _, h⟩ => (nomatch h), fun _ => rfl⟩
  | some row => exact ⟨fun h => (nomatch h), fun h => absurd ⟨row.1, row.2, rfl⟩ h⟩

/-- Settles O16: the decoder looks at the opcode's row and at the reserved bits, and so do the table's two questions,
whether a row has the word's opcode and whether a row matches the word. -/
theorem wordsFallIntoThreeClasses : Obligations.WordsFallIntoThreeClasses := by
  intro w
  have hopcode : (∃ row ∈ opcodeRows, w.extractLsb' 24 8 = row.1.extractLsb' 24 8) ↔
      ∃ f build, opcodeRow (opcField w) = some (f, build) := exists_row_opcode_iff
  refine ⟨decode_ok_iff.trans exists_row_matches_iff.symm, ?illegal, ?reserved⟩
  case illegal =>
    rw [decode_illegal_iff, opcodeRow_eq_none_iff, ← hopcode]
    simp only [not_exists, not_and, ne_eq]
  case reserved =>
    have hno : (∀ row ∈ opcodeRows, w &&& row.2 ≠ row.1) ↔ ¬ ∃ row ∈ opcodeRows, w &&& row.2 = row.1 := by
      simp only [not_exists, not_and, ne_eq]
    rw [hopcode, hno, exists_row_matches_iff, decode_reserved_iff]
    constructor
    · rintro ⟨f, build, hrow, hres⟩
      refine ⟨⟨f, build, hrow⟩, fun ⟨f', build', hrow', hclear⟩ => ?_⟩
      cases hrow.symm.trans hrow'
      exact hres hclear
    · rintro ⟨⟨f, build, hrow⟩, hnone⟩
      exact ⟨f, build, hrow, fun hres => hnone ⟨f, build, hrow, hres⟩⟩

end Sys2Proof.WordClasses
end

section
/-! The command port (spec/30_encoding.md R100, R103, R105): what a presented word does, by the class the decoder puts
it in, and the encoding of a command as the statements give it. -/

namespace Sys2Proof.CommandPort

open Sys2Proof.Machine Sys2Proof.Rules Sys2Proof.Laws Sys2Proof.WordClasses Sys2Proof.HostSide

variable {w : Word} {s : State}

theorem performWord_of_ok {i : Instr} (hs : s.fault = false) (hd : decode w = .ok i) : performWord w s = exec i s := by
  simp [performWord, hs, hd]

theorem performWord_of_illegal (hs : s.fault = false) (hd : decode w = .error .illegalOpcode) :
    performWord w s = .next (raise .illegalOpcode w s) := by
  simp [performWord, hs, hd]

theorem performWord_of_reserved (hs : s.fault = false) (hd : decode w = .error .reservedField) :
    performWord w s = .next (raise .reservedField w s) := by
  simp [performWord, hs, hd]

/-- The next host action, if it presents a word, has the word performed once it is off the list. -/
theorem step_command {rest : List HostAction} (hhost : s.host = .command w :: rest) :
    step s = performWord w (setHost rest s) := by
  have hs : setHost (.command w :: rest) s = s := by rw [← hhost]; rfl
  rw [← hs]
  exact step_takes (.command w) rest s

/-- Settles O4: the step takes the word off the list, and a word that decodes is its command's `exec`. -/
theorem stepRunsTheDecodedCommand : Obligations.StepRunsTheDecodedCommand := by
  intro w rest i s hhost hs hd
  exact (step_command hhost).trans (performWord_of_ok (s := setHost rest s) hs hd)

/-- Settles O5: the two rejections of the decoder are the causes 1 and 2. -/
theorem undecodedWordRaisesItsCause : Obligations.UndecodedWordRaisesItsCause := by
  intro w rest s hhost hs
  rw [step_command hhost]
  exact ⟨performWord_of_illegal (s := setHost rest s) hs, performWord_of_reserved (s := setHost rest s) hs⟩

/-- A row of the opcode map encodes its command as the statements say: the word decodes to it with clear reserved bits,
and faults with a set one (R103, R104). -/
theorem encodedAs_of_row {opc : Byte} {f : Format} {build : Byte → Half → Instr}
    (hrow : opcodeRow opc = some (f, build)) : EncodedAs opc (reservedMask f) build := by
  intro w hopc
  have hrow' : opcodeRow (opcField w) = some (f, build) := by rw [← hrow, ← hopc]; rfl
  refine ⟨fun hres => ?accepted, fun hres s hs => ?rejected⟩
  case accepted => exact (decode_of_row hrow').trans (if_pos hres)
  case rejected => exact performWord_of_reserved hs ((decode_of_row hrow').trans (if_neg hres))

end Sys2Proof.CommandPort
end

section
/-! READ (spec/30_encoding.md R110): the register map of R34 as a list of numbers and values. -/

namespace Sys2Proof.ReadRegister

open Sys2Proof.Machine Sys2Proof.Rules Sys2Proof.CommandPort

theorem bit_eq_ofNat (b : Bool) : bit b = BitVec.ofNat 32 b.toNat := by
  cases b <;> rfl

/-- READ's register map holds the numbers and the values of R34's table. -/
theorem registerValue_eq_lookup (reg : Byte) (s : State) :
    registerValue reg s = ((registerTable s).lookup reg.toNat).map (BitVec.ofNat 32) := by
  unfold registerValue
  split
  -- The last arm is the one for a number that is no register's.
  case h_34 =>
    have unlisted {n : Nat} (hreg : reg = BitVec.ofNat 8 n → False) : (reg.toNat != n) = true :=
      bne_iff_ne.mpr (by rintro rfl; simp at hreg)
    have hnone : (registerTable s).lookup reg.toNat = none := by
      simp only [registerTable, List.lookup_eq_none_iff, List.forall_mem_cons]
      repeat refine ⟨unlisted (by assumption), ?_⟩
      exact List.forall_mem_nil _
    rw [hnone]; rfl
  -- CLK.phase and its increment have the width of `RESP` already; the next three are the one-bit registers.
  case h_2 | h_3 => exact congrArg some (by simp)
  case h_6 | h_29 | h_33 => exact congrArg some (bit_eq_ofNat _)
  all_goals exact congrArg some (BitVec.ofNat_toNat 32 _).symm

theorem readRegister_of_some {reg : Byte} {s : State} {v : Word} (h : registerValue reg s = some v) :
    readRegister reg s = respond v s := by
  simp only [readRegister, h]

theorem readRegister_of_none {reg : Byte} {s : State} (h : registerValue reg s = none) :
    readRegister reg s = raise .badRegister (encode (.read reg)) s := by
  simp only [readRegister, h]

/-- Settles O20: READ answers or faults as its number is in R34's table or not. -/
theorem readAnswersTheNumberedRegister : Obligations.ReadAnswersTheNumberedRegister := by
  refine ⟨encodedAs_of_row (f := .B) rfl, fun reg s => ?_⟩
  have hvalue := registerValue_eq_lookup reg s
  cases hlookup : (registerTable s).lookup reg.toNat with
  | some v =>
    rw [hlookup] at hvalue
    exact congrArg Host.Outcome.next (readRegister_of_some hvalue)
  | none =>
    rw [hlookup] at hvalue
    exact congrArg Host.Outcome.next (readRegister_of_none hvalue)

end Sys2Proof.ReadRegister
end

section
/-! CLK_WRAP in the integers of R163 (spec/41_clock.md). -/

namespace Sys2Proof.ClockWrap

open Sys2Proof.Machine Sys2Proof.Rules Sys2Proof.CommandPort

/-- Clearing the top bit of a phase halves its range. -/
theorem and_clearTop (v : Word) : v &&& 0x7FFFFFFF#32 = BitVec.ofNat 32 (v.toNat % 2 ^ 31) := by
  refine BitVec.eq_of_toNat_eq ?_
  calc (v &&& 0x7FFFFFFF#32).toNat
      = v.toNat % 2 ^ 31 := Nat.and_two_pow_sub_one_eq_mod _ 31
    _ = (BitVec.ofNat 32 (v.toNat % 2 ^ 31)).toNat := by rw [BitVec.toNat_ofNat]; omega

theorem wrapTop_shiftLeft (amount : Byte) : wrapTop (swingAmount amount) <<< 24 = wrapPoint amount :=
  Nat.shiftLeft_eq ..

theorem wrapTop_shiftRight (amount : Int) : wrapTop amount >>> 1 = (128 + amount).toNat / 2 := rfl

theorem wrapClk_zero (c : Clk) :
    wrapClk 0 c = { c with phase := BitVec.ofNat 32 (c.phase.toNat % 2 ^ 31), fallingEdge := 0x40 } := by
  rw [wrapClk, if_pos rfl, and_clearTop]

theorem wrapClk_swing {amount : Byte} (hzero : swingAmount amount ≠ 0) (c : Clk) :
    wrapClk (swingAmount amount) c =
      { c with
        phase := if wrapPoint amount ≤ c.phase.toNat then BitVec.ofNat 32 (c.phase.toNat - wrapPoint amount)
          else c.phase
        fallingEdge := BitVec.ofNat 8 ((128 + amount.toInt).toNat / 2) } := by
  rw [wrapClk, if_neg hzero, wrapTop_shiftLeft, wrapTop_shiftRight]
  rfl

/-- Settles O28, one case per branch of R163. -/
theorem clkWrapFoldsThePhase : Obligations.ClkWrapFoldsThePhase := by
  refine ⟨encodedAs_of_row (f := .B) rfl, fun amount s => congrArg Host.Outcome.next ?_⟩
  refine if_congr Iff.rfl rfl ?_
  by_cases hzero : amount.toInt = 0
  · rw [if_pos hzero, show swingAmount amount = 0 from hzero, wrapClk_zero]
    rfl
  · rw [if_neg hzero, wrapClk_swing hzero]
    rfl

end Sys2Proof.ClockWrap
end

section
/-! The units keep apart (spec/30_encoding.md R101, spec/41_clock.md R171, spec/42_pattern.md R193): a command writes
the registers of the unit its opcode names, and PG_TICK advances the LFSR besides. -/

namespace Sys2Proof.UnitFrames

open Sys2Proof.Machine Sys2Proof.Rules Sys2Proof.Laws

/-- The unit is the opcode's upper half. -/
theorem unitOf_of_encode {i : Instr} {opc b : Byte} {h : Half} {u : Nat} (hword : encode i = commandWord opc b h)
    (hupper : opc.toNat / 16 = u) : unitOf i = u := by
  have hopc : (opcField (encode i)).toNat = opc.toNat := by rw [hword, opcField_commandWord]
  have hlt := (encode i).isLt
  rw [opcField, BitVec.extractLsb'_toNat, Nat.shiftRight_eq_div_pow] at hopc
  unfold unitOf
  omega

/-- From `s` to `t` the command `i` writes no other unit's registers, and the host's list stays. -/
abbrev KeepsOtherUnits (i : Instr) (s t : State) : Prop :=
  t.host = s.host ∧
  (unitOf i ≠ 1 → (∀ n, i ≠ .pgTick n) → t.rnd = s.rnd) ∧
  (unitOf i ≠ 2 → t.clk = s.clk) ∧ (unitOf i ≠ 3 → t.pg = s.pg) ∧ (unitOf i ≠ 4 → t.osc = s.osc)

section
variable {i : Instr} {s : State}

theorem keeps_raise (c : Cause) (w : Word) : KeepsOtherUnits i s (raise c w s) :=
  ⟨rfl, fun _ _ => rfl, fun _ => rfl, fun _ => rfl, fun _ => rfl⟩

theorem keeps_respond (v : Word) : KeepsOtherUnits i s (respond v s) :=
  ⟨rfl, fun _ _ => rfl, fun _ => rfl, fun _ => rfl, fun _ => rfl⟩

theorem keeps_setRnd (hunit : unitOf i = 1) (v : Half) : KeepsOtherUnits i s (setRnd v s) :=
  ⟨rfl, fun hne _ => absurd hunit hne, fun _ => rfl, fun _ => rfl, fun _ => rfl⟩

theorem keeps_setClk (hunit : unitOf i = 2) (c : Clk) : KeepsOtherUnits i s (setClk c s) :=
  ⟨rfl, fun _ _ => rfl, fun hne => absurd hunit hne, fun _ => rfl, fun _ => rfl⟩

theorem keeps_setPg (hunit : unitOf i = 3) (p : Pg) : KeepsOtherUnits i s (setPg p s) :=
  ⟨rfl, fun _ _ => rfl, fun _ => rfl, fun hne => absurd hunit hne, fun _ => rfl⟩

theorem keeps_setOsc (hunit : unitOf i = 4) (o : Osc) : KeepsOtherUnits i s (setOsc o s) :=
  ⟨rfl, fun _ _ => rfl, fun _ => rfl, fun _ => rfl, fun hne => absurd hunit hne⟩

theorem keeps_renderSamples (hunit : unitOf i = 4) (next : Osc → Osc) (n : Nat) (o : Osc) :
    KeepsOtherUnits i s (renderSamples next n (setOsc o s)) := by
  rw [renderSamples_eq]
  exact ⟨rfl, fun _ _ => rfl, fun _ => rfl, fun _ => rfl, fun hne => absurd hunit hne⟩

end

/-! ### The commands whose effect depends on their operands -/

variable (s : State)

/-- PG_TICK writes the LFSR beside its own unit's registers (R193). -/
theorem pgTick_keeps (P : Params) (n : Byte) : KeepsOtherUnits (.pgTick n) s (pgTick P n s) :=
  have hunit : unitOf (.pgTick n) = 3 := unitOf_of_encode rfl rfl
  ⟨rfl, fun _ hother => absurd rfl (hother n), fun _ => rfl, fun hne => absurd hunit hne, fun _ => rfl⟩

theorem readRegister_keeps (reg : Byte) : KeepsOtherUnits (.read reg) s (readRegister reg s) := by
  unfold readRegister
  split
  · exact keeps_respond _
  · exact keeps_raise _ _

theorem rndSeed_keeps (v : Half) : KeepsOtherUnits (.rndSeed v) s (rndSeed v s) := by
  unfold rndSeed
  split
  · exact keeps_raise _ _
  · exact keeps_setRnd (unitOf_of_encode rfl rfl) _

theorem clkUpdate_keeps (P : Params) (res : Byte) (bpm : Half) :
    KeepsOtherUnits (.clkUpdate res bpm) s (clkUpdate P res bpm s) := by
  unfold clkUpdate
  split
  · exact keeps_raise _ _
  · split
    · exact keeps_raise _ _
    · exact keeps_setClk (unitOf_of_encode rfl rfl) _

theorem clkWrap_keeps (amount : Byte) : KeepsOtherUnits (.clkWrap amount) s (clkWrap amount s) := by
  unfold clkWrap
  split
  · exact keeps_raise _ _
  · exact keeps_setClk (unitOf_of_encode rfl rfl) _

theorem pgSet_keeps (idx v : Byte) : KeepsOtherUnits (.pgSet idx v) s (pgSet idx v s) := by
  unfold pgSet
  split
  -- The last arm is the one for an index above 6.
  case h_8 => exact keeps_raise _ _
  all_goals exact keeps_setPg (unitOf_of_encode rfl rfl) _

theorem oscSetPitch_keeps (P : Params) (p : Half) : KeepsOtherUnits (.oscSetPitch p) s (oscSetPitch P p s) := by
  unfold oscSetPitch
  split
  · exact keeps_raise _ _
  · exact keeps_setOsc (unitOf_of_encode rfl rfl) _

theorem oscSetShape_keeps (shape : Byte) : KeepsOtherUnits (.oscSetShape shape) s (oscSetShape shape s) := by
  unfold oscSetShape
  split
  · exact keeps_setOsc (unitOf_of_encode rfl rfl) _
  · exact keeps_raise _ _

theorem oscSetGate_keeps (g : Byte) : KeepsOtherUnits (.oscSetGate g) s (oscSetGate g s) := by
  unfold oscSetGate
  split
  · exact keeps_setOsc (unitOf_of_encode rfl rfl) _
  · exact keeps_setOsc (unitOf_of_encode rfl rfl) _
  · exact keeps_raise _ _

theorem oscRender_keeps (P : Params) : KeepsOtherUnits .oscRender s (oscRender P s) := by
  unfold oscRender
  split
  · exact keeps_raise _ _
  · split
    · exact keeps_renderSamples (unitOf_of_encode rfl rfl) _ _ _
    · exact keeps_renderSamples (unitOf_of_encode rfl rfl) _ _ s.osc

/-! ### Every command -/

variable {s}

theorem exec_keeps {i : Instr} {t : State} (h : exec i s = .next t) : KeepsOtherUnits i s t := by
  cases i <;> cases h
  case read reg => exact readRegister_keeps s reg
  case rndSeed v => exact rndSeed_keeps s v
  case clkUpdate res bpm => exact clkUpdate_keeps s _ res bpm
  case clkWrap amount => exact clkWrap_keeps s amount
  case pgSet idx v => exact pgSet_keeps s idx v
  case pgTick n => exact pgTick_keeps s _ n
  case oscSetPitch p => exact oscSetPitch_keeps s _ p
  case oscSetShape shape => exact oscSetShape_keeps s shape
  case oscSetGate g => exact oscSetGate_keeps s g
  case oscRender => exact oscRender_keeps s _
  case rndUpdate => exact keeps_setRnd (unitOf_of_encode rfl rfl) _
  case rndState | rndByte | clkRising | clkFallen | clkLocked | pgState | pgStep => exact keeps_respond _
  case clkInit | clkTick | clkReset | clkLock | clkUnlock => exact keeps_setClk (unitOf_of_encode rfl rfl) _
  case pgInit | pgReset => exact keeps_setPg (unitOf_of_encode rfl rfl) _
  case oscInit | oscSetPw => exact keeps_setOsc (unitOf_of_encode rfl rfl) _

/-- Settles O12: each named update writes one unit's registers, and a command uses its own unit's. -/
theorem unitsKeepToTheirOwnRegisters : Obligations.UnitsKeepToTheirOwnRegisters := fun _ _ _ => exec_keeps

end Sys2Proof.UnitFrames
end

section
/-! The assembler (spec/30_encoding.md R106, R109, R111): a field takes exactly the operands in its range, and gives
back the bits whose value the operand is. -/

namespace Sys2Proof.AssemblerLines

open Sys2Proof.Machine Sys2Proof.Laws

/-! ### Operands in and out of range (R106, R109) -/

theorem fieldOf_inRange {width : Nat} {kind : OperandKind} {v : Int} (h : (Operand.mk kind v).inRange = true) :
    fieldOf width kind v = some (BitVec.ofInt width v) := if_pos h

theorem fieldOf_outOfRange {width : Nat} {kind : OperandKind} {v : Int} (h : (Operand.mk kind v).inRange = false) :
    fieldOf width kind v = none := if_neg (by simp [h])

@[simp] theorem u8_toNat (b : Byte) : u8 b.toNat = some b :=
  (fieldOf_inRange (inRange_u8 b)).trans (congrArg some (by simp))

@[simp] theorem u16_toNat (h : Half) : u16 h.toNat = some h :=
  (fieldOf_inRange (inRange_u16 h)).trans (congrArg some (by simp))

@[simp] theorem s8_toInt (b : Byte) : s8 b.toInt = some b :=
  (fieldOf_inRange (inRange_s8 b)).trans (congrArg some BitVec.ofInt_toInt)

@[simp] theorem s16_toInt (h : Half) : s16 h.toInt = some h :=
  (fieldOf_inRange (inRange_s16 h)).trans (congrArg some BitVec.ofInt_toInt)

theorem u8_eq_none {v : Int} (h : v < 0 ∨ 255 < v) : u8 v = none :=
  fieldOf_outOfRange (by simp only [Operand.inRange, decide_eq_false_iff_not]; omega)

theorem u16_eq_none {v : Int} (h : v < 0 ∨ 65535 < v) : u16 v = none :=
  fieldOf_outOfRange (by simp only [Operand.inRange, decide_eq_false_iff_not]; omega)

theorem s8_eq_none {v : Int} (h : v < -128 ∨ 127 < v) : s8 v = none :=
  fieldOf_outOfRange (by simp only [Operand.inRange, decide_eq_false_iff_not]; omega)

theorem s16_eq_none {v : Int} (h : v < -32768 ∨ 32767 < v) : s16 v = none :=
  fieldOf_outOfRange (by simp only [Operand.inRange, decide_eq_false_iff_not]; omega)

/-! ### Commands (R104, R109)

What a mnemonic makes of its operands; a mnemonic that takes none is the command itself. -/

section
variable (u v : Int)

@[simp] theorem assemble_read : assemble "READ" [v] = (u8 v).map fun b => [.read b] := rfl
@[simp] theorem assemble_rndSeed : assemble "RND_SEED" [v] = (u16 v).map fun h => [.rndSeed h] := rfl
@[simp] theorem assemble_clkUpdate :
    assemble "CLK_UPDATE" [u, v] = (u8 u).bind fun res => (u16 v).map fun bpm => [.clkUpdate res bpm] := rfl
@[simp] theorem assemble_clkWrap : assemble "CLK_WRAP" [v] = (s8 v).map fun b => [.clkWrap b] := rfl
@[simp] theorem assemble_pgTick : assemble "PG_TICK" [v] = (u8 v).map fun b => [.pgTick b] := rfl
@[simp] theorem assemble_pgSet :
    assemble "PG_SET" [u, v] = (u8 u).bind fun idx => (u8 v).map fun b => [.pgSet idx b] := rfl
@[simp] theorem assemble_oscSetPitch : assemble "OSC_SET_PITCH" [v] = (s16 v).map fun h => [.oscSetPitch h] := rfl
@[simp] theorem assemble_oscSetShape : assemble "OSC_SET_SHAPE" [v] = (u8 v).map fun b => [.oscSetShape b] := rfl
@[simp] theorem assemble_oscSetGate : assemble "OSC_SET_GATE" [v] = (u8 v).map fun b => [.oscSetGate b] := rfl
@[simp] theorem assemble_oscSetPw : assemble "OSC_SET_PW" [v] = (u8 v).map fun b => [.oscSetPw b] := rfl

end

/-- Assembling a command's mnemonic with its operands gives back the command. -/
theorem assemble_mnemonicOf (i : Instr) : assemble (mnemonicOf i) (i.operands.map Operand.value) = some [i] := by
  cases i
  case read | rndSeed | clkUpdate | clkWrap | pgTick | pgSet | oscSetPitch | oscSetShape | oscSetGate | oscSetPw =>
    simp [mnemonicOf, Instr.operands]
  all_goals rfl

/-- Settles O18: a field refuses what is out of its range, and with it the line, whatever the other operand is. -/
theorem assemblerGivesBackEveryCommand : Obligations.AssemblerGivesBackEveryCommand := by
  refine ⟨assemble_mnemonicOf, ?byte, ?half, ?signedByte, ?signedHalf⟩
  case byte => intro v u hv; simp [u8_eq_none hv]
  case half => intro v u hv; simp [u16_eq_none hv]
  case signedByte => intro v hv; simp [s8_eq_none hv]
  case signedHalf => intro v hv; simp [s16_eq_none hv]

/-! ### Pseudo-instructions (R111) -/

theorem assemble_pgSetDensity (i v : Int) :
    assemble "PG_SET_DENSITY" [i, v] = if 0 ≤ i ∧ i ≤ 2 then setLine (BitVec.ofInt 8 (3 + i)) v else none := rfl

theorem assemble_pgSetOptions (r sw t o d g : Int) :
    assemble "PG_SET_OPTIONS" [r, sw, t, o, d, g] = (optionsOperand r sw t o d g).map fun b => [.pgSet 6 b] := rfl

theorem assemble_clkStep (a : Int) : assemble "CLK_STEP" [a] = (s8 a).map fun b => [.clkTick, .clkWrap b] := rfl

theorem assemble_tickAndTest (a : Int) :
    assemble "TICK_AND_TEST" [a] = (s8 a).map fun b => [.clkTick, .clkWrap b, .clkRising] := rfl

theorem setLine_toNat (idx v : Byte) : setLine idx v.toNat = some [.pgSet idx v] := by
  rw [setLine, u8_toNat]; rfl

/-- The index of a density is the part's, above the three option cells. -/
theorem assemble_pgSetDensity_part (i : Fin 3) (v : Byte) :
    assemble "PG_SET_DENSITY" [i.val, v.toNat] = some [.pgSet (BitVec.ofNat 8 (3 + i.val)) v] := by
  have hindex : BitVec.ofInt 8 (3 + (i.val : Int)) = BitVec.ofNat 8 (3 + i.val) := by
    exact_mod_cast BitVec.ofInt_natCast 8 (3 + i.val)
  rw [assemble_pgSetDensity, if_pos (by omega), hindex, setLine_toNat]

theorem flagOperand_toNat (b : Bool) : flagOperand b.toNat = some b := by
  cases b <;> rfl

/-- The operands of PG_SET_OPTIONS taken from an options value give its packed byte (R210). -/
theorem optionsOperand_eq_pack (o : Options) :
    optionsOperand o.clockResolution.val o.swing.toNat o.tapTempo.toNat o.outputClock.toNat
      (decide (o.outputMode = .drums)).toNat o.gateMode.toNat = some (pack o) := by
  have hbyte : (BitVec.ofNat 8 o.clockResolution.val).toNat = o.clockResolution.val := by
    rw [BitVec.toNat_ofNat]; omega
  have hres : u8 o.clockResolution.val = some (BitVec.ofNat 8 o.clockResolution.val) := by
    conv_lhs => rw [← hbyte, u8_toNat]
  have hmode : (if decide (o.outputMode = .drums) then OutputMode.drums else .euclidean) = o.outputMode := by
    cases o.outputMode <;> rfl
  simp only [optionsOperand, hres, flagOperand_toNat, Option.bind_eq_bind, Option.bind_some, hmode, hbyte,
    o.clockResolution.isLt, dif_pos]

/-- Settles O19: each line passes its operands through the fields to the commands of R111. -/
theorem pseudoInstructionsExpand : Obligations.PseudoInstructionsExpand := by
  refine ⟨fun v => ?cell, fun o => ?options, fun a => ?clock⟩
  case cell =>
    exact ⟨setLine_toNat 0 v, setLine_toNat 0 v, setLine_toNat 1 v, setLine_toNat 1 v, setLine_toNat 2 v,
      setLine_toNat 2 v, fun i => assemble_pgSetDensity_part i v⟩
  case options => rw [assemble_pgSetOptions, optionsOperand_eq_pack, Option.map_some]
  case clock =>
    rw [assemble_clkStep, assemble_tickAndTest, s8_toInt, Option.map_some, Option.map_some]
    exact ⟨rfl, rfl⟩

end Sys2Proof.AssemblerLines
end

section
/-! The Galois step (spec/40_lfsr.md R140) in the integers of the statements, and as a linear map: it respects XOR and
takes only 0 to 0, so it is a bijection. -/

namespace Sys2Proof.GaloisStep

open Sys2Proof.Machine Sys2Proof.Rules Sys2Proof.Laws

/-- The tap mask goes in as bit 0 goes out. -/
theorem galoisStep_eq (x : Half) : galoisStep x = (x >>> 1) ^^^ if x.getLsbD 0 then 0xB400#16 else 0#16 := by
  rw [galoisStep]
  split
  · rfl
  · rw [BitVec.xor_zero]

theorem galoisStep_toNat (x : Half) : (galoisStep x).toNat = galois x.toNat := by
  have hodd : x.getLsbD 0 = true ↔ x.toNat % 2 = 1 := by
    rw [BitVec.getLsbD, Nat.testBit_zero, decide_eq_true_iff]
  have hhalf : (x >>> 1).toNat = x.toNat / 2 := by
    rw [BitVec.toNat_ushiftRight, Nat.shiftRight_eq_div_pow, pow_one]
  rw [galoisStep, galois, apply_ite BitVec.toNat, BitVec.toNat_xor, hhalf]
  exact if_congr hodd rfl rfl

theorem ofNat_galois (x : Half) : BitVec.ofNat 16 (galois x.toNat) = galoisStep x := by
  rw [← galoisStep_toNat, BitVec.ofNat_toNat, BitVec.setWidth_eq]

theorem galoisStep_zero : galoisStep 0 = 0 := rfl

theorem galoisStep_xor (x y : Half) : galoisStep (x ^^^ y) = galoisStep x ^^^ galoisStep y := by
  have htaps : (if (x ^^^ y).getLsbD 0 then 0xB400#16 else 0#16) =
      (if x.getLsbD 0 then 0xB400#16 else 0#16) ^^^ if y.getLsbD 0 then 0xB400#16 else 0#16 := by
    rw [BitVec.getLsbD_xor]
    cases x.getLsbD 0 <;> cases y.getLsbD 0 <;> rfl
  simp only [galoisStep_eq, htaps, BitVec.ushiftRight_xor_distrib]
  ac_rfl

/-- Two states with one successor differ by a state that steps to 0, which is 0. -/
theorem galoisStep_injective : Function.Injective galoisStep := by
  intro x y h
  have hdiff : galoisStep (x ^^^ y) = 0 := by rw [galoisStep_xor, h, BitVec.xor_self]; rfl
  by_contra hne
  exact galoisStep_ne_zero (fun hzero => hne (BitVec.xor_eq_zero_iff.mp hzero)) hdiff

theorem galois_eq_iff (x y : Half) : galois x.toNat = y.toNat ↔ galoisStep x = y := by
  rw [← galoisStep_toNat, BitVec.toNat_inj]

theorem galois_pos {x : Half} (h : x ≠ 0) : 0 < galois x.toNat := by
  rw [← galoisStep_toNat]
  exact Nat.pos_of_ne_zero fun hzero => galoisStep_ne_zero h (BitVec.eq_of_toNat_eq hzero)

end Sys2Proof.GaloisStep
end

section
/-! The RND commands (spec/40_lfsr.md R140 to R143). -/

namespace Sys2Proof.RndCommands

open Sys2Proof.Machine Sys2Proof.Rules Sys2Proof.CommandPort Sys2Proof.GaloisStep

/-- Settles O21: the one state that steps to `y` is its preimage under a step that is injective, and so surjective, on
finitely many states. -/
theorem rndUpdateIsOneGaloisStep : Obligations.RndUpdateIsOneGaloisStep := by
  refine ⟨encodedAs_of_row (f := .N) rfl, fun s => ?step, rfl, fun x hx => ⟨galois_pos hx, ?bound⟩,
    fun y hy => ?preimage⟩
  case step => rw [ofNat_galois]; rfl
  case bound => rw [← galoisStep_toNat]; exact BitVec.isLt _
  case preimage =>
    obtain ⟨x, rfl⟩ := Finite.surjective_of_injective galoisStep_injective y
    refine ⟨x, fun hx => hy (by rw [hx, galoisStep_zero]), fun z => ?_⟩
    rw [galois_eq_iff, galoisStep_injective.eq_iff]

/-- Settles O22: the check of the seed is on the operand as an integer. -/
theorem rndSeedGuardsZero : Obligations.RndSeedGuardsZero := by
  refine ⟨encodedAs_of_row (f := .H) rfl, fun v s => congrArg Host.Outcome.next ?_⟩
  exact if_congr (BitVec.toNat_inj (y := 0#16)).symm rfl rfl

/-- Settles O23: each query answers its value zero-extended and writes nothing else. -/
theorem rndQueriesAnswerTheState : Obligations.RndQueriesAnswerTheState := by
  refine ⟨encodedAs_of_row (f := .N) rfl, encodedAs_of_row (f := .N) rfl, fun s => ⟨?state, ?byte⟩⟩
  case state => exact congrArg (fun v => Host.Outcome.next (respond v s)) (BitVec.ofNat_toNat 32 s.rnd).symm
  case byte =>
    rw [← Laws.topByte_toNat]
    exact congrArg (fun v => Host.Outcome.next (respond v s)) (BitVec.ofNat_toNat 32 (topByte s.rnd)).symm

end Sys2Proof.RndCommands
end

section
/-! The orbit of the Galois step (spec/40_lfsr.md R144). The state 0x8000 generates every state under the step and XOR,
so a linear map that commutes with the step is known from its value there. Five such values say everything: the 65535th
power of the step is the identity, and for each prime factor `p` of 65535 the sum of the identity and the power
`65535 / p` is again a power of the step, and so takes no nonzero state to 0. -/

namespace Sys2Proof.GaloisOrbit

open Sys2Proof.Machine Sys2Proof.Laws Sys2Proof.GaloisStep

/-! ### Linear maps that commute with the step -/

/-- The state whose first 16 successors, itself included, are the 16 states with one bit set. -/
def top : Half := 0x8000

/-- A state is its top bit and the step of the other bits moved up, which loses no bit and meets no tap mask. -/
theorem eq_top_xor_galoisStep (x : Half) : x = (if x.msb then top else 0) ^^^ galoisStep (x <<< 1) := by
  have hlow : (x <<< 1).getLsbD 0 = false := by rw [BitVec.getLsbD_shiftLeft]; rfl
  have htop : ∀ i < 16, top.getLsbD i = decide (i = 15) := by decide
  refine BitVec.eq_of_getLsbD_eq fun i hi => ?_
  rw [galoisStep_eq, hlow, if_neg Bool.false_ne_true, BitVec.xor_zero, BitVec.getLsbD_xor,
    apply_ite (BitVec.getLsbD · i), htop i hi, BitVec.getLsbD_ushiftRight, BitVec.getLsbD_shiftLeft]
  rcases Nat.lt_or_ge i 15 with hlt | hge
  · simp [hlt.ne, show 1 + i < 16 by omega]
  · obtain rfl : i = 15 := by omega
    simp [BitVec.msb_eq_getLsbD_last]

/-- `F` respects XOR and commutes with the step. -/
structure Linear (F : Half → Half) : Prop where
  xor : ∀ x y, F (x ^^^ y) = F x ^^^ F y
  step : ∀ x, F (galoisStep x) = galoisStep (F x)

theorem linear_iterate (n : Nat) : Linear galoisStep^[n] where
  xor x y := by
    induction n generalizing x y with
    | zero => rfl
    | succ n ih => simp only [Function.iterate_succ_apply, galoisStep_xor, ih]
  step x := Function.Commute.iterate_self galoisStep n x

theorem Linear.add_id {F : Half → Half} (hF : Linear F) : Linear fun x => x ^^^ F x where
  xor x y := by simp only [hF.xor]; ac_rfl
  step x := by simp only [hF.step, galoisStep_xor]

theorem Linear.zero {F : Half → Half} (hF : Linear F) : F 0 = 0 := by
  calc F 0 = F 0 ^^^ F 0 := hF.xor 0 0
    _ = 0 := BitVec.xor_self

/-- Two linear maps that agree at `top` agree, by induction on the number of bits a state may have set. -/
theorem Linear.ext {F G : Half → Half} (hF : Linear F) (hG : Linear G) (htop : F top = G top) (x : Half) :
    F x = G x := by
  have key (n : Nat) : ∀ x : Half, x <<< n = 0 → F x = G x := by
    induction n with
    | zero =>
      intro x hx
      rw [BitVec.shiftLeft_zero] at hx
      rw [hx, hF.zero, hG.zero]
    | succ n ih =>
      intro x hx
      have hrest : F (x <<< 1) = G (x <<< 1) := ih _ (by rw [← BitVec.shiftLeft_add, Nat.add_comm, hx])
      rw [eq_top_xor_galoisStep x, hF.xor, hG.xor, hF.step, hG.step, hrest]
      split
      · rw [htop]
      · rw [hF.zero, hG.zero]
  exact key 16 x (BitVec.shiftLeft_eq_zero (Nat.le_refl 16))

/-! ### Powers of the step at `top` -/

/-- The sum of the powers of the step at `x` that the top `n` bits of `c` select, the top bit for the identity. -/
def combine : Nat → Half → Half → Half
  | 0, _, _ => 0
  | n + 1, c, x => (if c.msb then x else 0) ^^^ galoisStep (combine n (c <<< 1) x)

theorem linear_combine (n : Nat) (c : Half) : Linear (combine n c) where
  xor x y := by
    induction n generalizing c with
    | zero => exact BitVec.xor_self.symm
    | succ n ih =>
      simp only [combine, ih, galoisStep_xor]
      split
      · ac_rfl
      · simp
  step x := by
    induction n generalizing c with
    | zero => exact galoisStep_zero.symm
    | succ n ih =>
      rw [combine, combine, ih, galoisStep_xor, apply_ite galoisStep, galoisStep_zero]

/-- The bits of a state select the powers of the step that make it from `top`. -/
theorem combine_top (n : Nat) (c : Half) (hc : c <<< n = 0) : combine n c top = c := by
  induction n generalizing c with
  | zero => rw [combine, ← hc, BitVec.shiftLeft_zero]
  | succ n ih =>
    rw [combine, ih _ (by rw [← BitVec.shiftLeft_add, Nat.add_comm, hc]), ← eq_top_xor_galoisStep]

theorem Linear.eq_combine {F : Half → Half} (hF : Linear F) (x : Half) : F x = combine 16 (F top) x :=
  hF.ext (linear_combine 16 (F top)) (combine_top 16 (F top) (BitVec.shiftLeft_eq_zero (Nat.le_refl 16))).symm x

/-- The power `n` of the step at `top` by repeated squaring, for `n` below `2^fuel`. -/
def powerAtTop : Nat → Nat → Half
  | 0, _ => top
  | fuel + 1, n =>
    let half := powerAtTop fuel (n / 2)
    if n % 2 = 0 then combine 16 half half else galoisStep (combine 16 half half)

theorem powerAtTop_eq (fuel n : Nat) (h : n < 2 ^ fuel) : powerAtTop fuel n = galoisStep^[n] top := by
  induction fuel generalizing n with
  | zero =>
    obtain rfl : n = 0 := by omega
    rfl
  | succ fuel ih =>
    have hsquare : combine 16 (galoisStep^[n / 2] top) (galoisStep^[n / 2] top) = galoisStep^[n / 2 + n / 2] top := by
      rw [Function.iterate_add_apply, ← (linear_iterate (n / 2)).eq_combine]
    rw [powerAtTop, ih _ (by omega), hsquare]
    split
    · congr 2; omega
    · rw [← Function.iterate_succ_apply' galoisStep]; congr 2; omega

/-! ### The period -/

/-- The 65535th power of the step is the identity. -/
theorem iterate_65535 (x : Half) : galoisStep^[65535] x = x := by
  have htop : galoisStep^[65535] top = galoisStep^[0] top := by
    rw [← powerAtTop_eq 16 65535 (by decide)]
    decide +kernel
  exact (linear_iterate 65535).ext (linear_iterate 0) htop x

theorem iterate_ne_zero {x : Half} (hx : x ≠ 0) (n : Nat) : galoisStep^[n] x ≠ 0 :=
  Function.Iterate.rec (· ≠ 0) hx (fun _ => galoisStep_ne_zero) n

/-- If the identity and power `m` of the step sum to the power `j`, then power `m` fixes no nonzero state. -/
theorem iterate_ne_self {m j : Nat} (hm : m < 2 ^ 16) (hj : j < 2 ^ 16)
    (hsum : top ^^^ powerAtTop 16 m = powerAtTop 16 j) {x : Half} (hx : x ≠ 0) : galoisStep^[m] x ≠ x := by
  intro hfix
  rw [powerAtTop_eq 16 m hm, powerAtTop_eq 16 j hj] at hsum
  have hpower : x ^^^ galoisStep^[m] x = galoisStep^[j] x := (linear_iterate m).add_id.ext (linear_iterate j) hsum x
  rw [hfix, BitVec.xor_self] at hpower
  exact iterate_ne_zero hx j hpower.symm

/-- The second exponents are the discrete logarithms of the sums; the kernel evaluates both powers. -/
theorem iterate_div_prime_ne_self {p : Nat} (hp : p.Prime) (hdvd : p ∣ 65535) {x : Half} (hx : x ≠ 0) :
    galoisStep^[65535 / p] x ≠ x := by
  have hcases : p = 3 ∨ p = 5 ∨ p = 17 ∨ p = 257 := by
    rw [show 65535 = 3 * 5 * 17 * 257 from rfl, hp.dvd_mul, hp.dvd_mul, hp.dvd_mul,
      Nat.prime_dvd_prime_iff_eq hp (by norm_num), Nat.prime_dvd_prime_iff_eq hp (by norm_num),
      Nat.prime_dvd_prime_iff_eq hp (by norm_num), Nat.prime_dvd_prime_iff_eq hp (by norm_num)] at hdvd
    omega
  rcases hcases with rfl | rfl | rfl | rfl
  · exact iterate_ne_self (m := 21845) (j := 43690) (by decide) (by decide) (by decide +kernel) hx
  · exact iterate_ne_self (m := 13107) (j := 61166) (by decide) (by decide) (by decide +kernel) hx
  · exact iterate_ne_self (m := 3855) (j := 8481) (by decide) (by decide) (by decide +kernel) hx
  · exact iterate_ne_self (m := 255) (j := 12849) (by decide) (by decide) (by decide +kernel) hx

/-- A proper divisor of `n` divides `n / p` for a prime factor `p` of `n`. -/
theorem exists_prime_dvd_div {d n : Nat} (hd : d ∣ n) (hne : d ≠ n) :
    ∃ p, p.Prime ∧ p ∣ n ∧ d ∣ n / p := by
  obtain ⟨q, rfl⟩ := hd
  have hq : q ≠ 1 := fun hq => hne (by rw [hq, Nat.mul_one])
  have hprime := Nat.minFac_prime hq
  refine ⟨q.minFac, hprime, (Nat.minFac_dvd q).mul_left d, ?_⟩
  rw [Nat.mul_div_assoc d (Nat.minFac_dvd q)]
  exact Nat.dvd_mul_right d _

theorem minimalPeriod_galoisStep {x : Half} (hx : x ≠ 0) : Function.minimalPeriod galoisStep x = 65535 := by
  have hperiod : Function.IsPeriodicPt galoisStep 65535 x := iterate_65535 x
  by_contra hne
  obtain ⟨p, hp, hdvd, hdiv⟩ := exists_prime_dvd_div hperiod.minimalPeriod_dvd hne
  exact iterate_div_prime_ne_self hp hdvd hx (Function.isPeriodicPt_iff_minimalPeriod_dvd.mpr hdiv)

/-- The 65535 states of an orbit are different and not 0, and there are no more such states. -/
theorem exists_iterate_eq {x v : Half} (hx : x ≠ 0) (hv : v ≠ 0) : ∃ k < 65535, galoisStep^[k] x = v := by
  have hinj : Set.InjOn (galoisStep^[·] x) (Finset.range 65535) := by
    rw [Finset.coe_range, ← minimalPeriod_galoisStep hx]
    exact Function.iterate_injOn_Iio_minimalPeriod
  have hmaps : ∀ k ∈ Finset.range 65535, galoisStep^[k] x ∈ Finset.univ.erase (0 : Half) := fun k _ =>
    Finset.mem_erase.mpr ⟨iterate_ne_zero hx k, Finset.mem_univ _⟩
  have hcard : (Finset.univ.erase (0 : Half)).card ≤ (Finset.range 65535).card := by
    rw [Finset.card_erase_of_mem (Finset.mem_univ _), Finset.card_univ, Fintype.card_congr BitVec.equivFin.toEquiv,
      Fintype.card_fin, Finset.card_range]
    decide
  obtain ⟨k, hk, hkv⟩ := Finset.surj_on_of_inj_on_of_card_le (fun k _ => galoisStep^[k] x) hmaps
    (fun _ _ hi hj h => hinj hi hj h) hcard v (Finset.mem_erase.mpr ⟨hv, Finset.mem_univ _⟩)
  exact ⟨k, Finset.mem_range.mp hk, hkv.symm⟩

end Sys2Proof.GaloisOrbit
end

section
/-! Runs of one command (spec/30_encoding.md R100, spec/60_exceptions.md R305): the host presents it over and over, and
each step performs it once. -/

namespace Sys2Proof.RepeatedCommand

open Sys2Proof.Machine Sys2Proof.Rules Sys2Proof.CommandPort Sys2Proof.WordClasses

theorem run_succ_of_next {M : Host.Core} {s t : M.State} (h : M.step s = .next t) (k : Nat) :
    M.run (k + 1) s = M.run k t := by
  rw [Host.Core.run, h]

/-- `i` takes every state to `f` of it, raising no fault, whatever the host is about to do. -/
structure Performs (i : Instr) (f : State → State) : Prop where
  exec_eq : ∀ s, exec i s = .next (f s)
  fault_eq : ∀ s, (f s).fault = s.fault
  setHost_eq : ∀ h s, f (setHost h s) = setHost h (f s)

variable {i : Instr} {f : State → State}

/-- With the command next at the port, one step performs it. -/
theorem step_presented (hf : Performs i f) {s : State} (hs : s.fault = false) (rest : List HostAction) :
    Sys2Proof.core.step (setHost (.command (encode i) :: rest) s) = .next (setHost rest (f s)) :=
  calc step (setHost (.command (encode i) :: rest) s)
      = performWord (encode i) (setHost rest s) := step_command rfl
    _ = exec i (setHost rest s) := performWord_of_ok hs (decodeOfEncodeIsTheCommand i)
    _ = .next (f (setHost rest s)) := hf.exec_eq _
    _ = .next (setHost rest (f s)) := by rw [hf.setHost_eq]

theorem run_replicate (hf : Performs i f) (k : Nat) {s : State} (hs : s.fault = false) (rest : List HostAction) :
    Host.Core.run Sys2Proof.core k (setHost (presents (List.replicate k i) ++ rest) s) =
      .next (setHost rest (f^[k] s)) := by
  induction k generalizing s with
  | zero => rfl
  | succ k ih =>
    have hstep := step_presented hf hs (presents (List.replicate k i) ++ rest)
    exact (run_succ_of_next hstep k).trans (ih ((hf.fault_eq s).trans hs))

theorem after_replicate (hf : Performs i f) (k : Nat) {s : State} (hs : s.fault = false) :
    after (List.replicate k i) s = setHost s.host (f^[k] s) := by
  have hrun := run_replicate hf k hs s.host
  rw [after, List.length_replicate]
  simp only [setHost] at hrun
  rw [hrun]
  rfl

end Sys2Proof.RepeatedCommand
end

section
/-! Runs of RND_UPDATE (spec/40_lfsr.md R144). -/

namespace Sys2Proof.RndPeriod

open Sys2Proof.Machine Sys2Proof.Laws Sys2Proof.Rules Sys2Proof.RepeatedCommand Sys2Proof.GaloisOrbit

/-- RND_UPDATE as a map of states. -/
def updateRnd (s : State) : State := setRnd (galoisStep s.rnd) s

theorem rndUpdate_performs : Performs .rndUpdate updateRnd where
  exec_eq _ := rfl
  fault_eq _ := rfl
  setHost_eq _ _ := rfl

theorem after_rndUpdates_rnd (k : Nat) {s : State} (hs : s.fault = false) :
    (after (List.replicate k .rndUpdate) s).rnd = galoisStep^[k] s.rnd := by
  have hrnd : Function.Semiconj State.rnd updateRnd galoisStep := fun _ => rfl
  rw [after_replicate rndUpdate_performs k hs, setHost_rnd, (hrnd.iterate_right k).eq]

/-- Settles O24: the run's LFSR states are the orbit of the Galois step, whose minimal period is 65535. -/
theorem rndPeriodIsMaximal : Obligations.RndPeriodIsMaximal := by
  intro s hs hrnd rndAfter
  have horbit (k : Nat) : rndAfter k = galoisStep^[k] s.rnd := after_rndUpdates_rnd k hs
  simp only [horbit]
  refine ⟨iterate_65535 s.rnd, fun k hpos hlt => ?early, iterate_ne_zero hrnd, fun v hv => exists_iterate_eq hrnd hv⟩
  case early =>
    exact Function.not_isPeriodicPt_of_pos_of_lt_minimalPeriod hpos.ne' (by rwa [minimalPeriod_galoisStep hrnd])

end Sys2Proof.RndPeriod
end

section
/-! PG_TICK's output (spec/42_pattern.md R193 to R202): the LFSR step and the top bits of every tick, and the Drums
body's perturbations, triggers and accents in the integers of the statements. -/

namespace Sys2Proof.PatternTick

open Sys2Proof.Machine Sys2Proof.Rules Sys2Proof.Laws Sys2Proof.GaloisStep

variable (P : Params) (rnd : Half) (pg : Pg)

/-! ### What a tick leaves in the PG registers -/

/-- Counting the pulses writes the position and nothing else (R192). -/
theorem advancePulses_frame (total : Nat) :
    advancePulses total pg =
      { pg with
        pulse := (advancePulses total pg).pulse
        step := (advancePulses total pg).step
        euclideanStep := (advancePulses total pg).euclideanStep } := by
  rw [advancePulses_eq, advanceSteps_frame]

theorem pgTick_rnd (n : Byte) (s : State) : (pgTick P n s).rnd = galoisStep s.rnd := rfl

/-- The pattern state after a tick is the body's. -/
theorem pgTick_state (n : Byte) (s : State) :
    (pgTick P n s).pg.state = (evaluateBody P (galoisStep s.rnd) (refreshPg (galoisStep s.rnd) s.pg)).state := by
  rw [pgTick, setPg_pg, advancePulses_frame]

/-- The perturbations after a tick are the body's. -/
theorem pgTick_partPerturbation (n : Byte) (s : State) :
    (pgTick P n s).pg.partPerturbation =
      (evaluateBody P (galoisStep s.rnd) (refreshPg (galoisStep s.rnd) s.pg)).partPerturbation := by
  rw [pgTick, setPg_pg, advancePulses_frame]

/-! ### The top bits (R194) -/

/-- Two pattern states with the same clock bit and the same random bit. -/
def SameTopBits (st st' : Byte) : Prop := st.getLsbD 6 = st'.getLsbD 6 ∧ st.getLsbD 7 = st'.getLsbD 7

theorem writeLowBits_top (st : Byte) (b5 b4 b3 : Bool) (trig : Triple Bool) :
    SameTopBits (writeLowBits st b5 b4 b3 trig) st := by
  obtain ⟨-, -, -, -, hclock, hrandom⟩ := writeLowBits_bits st b5 b4 b3 trig
  exact ⟨hclock, hrandom⟩

theorem drumsLayout_top (outputClock : Bool) (step : BitVec 5) (st : Byte) (trig acc : Triple Bool) :
    SameTopBits (drumsLayout P outputClock step st trig acc) st := by
  unfold drumsLayout
  split
  · exact writeLowBits_top _ _ _ _ _
  · exact writeLowBits_top _ _ _ _ _

theorem euclideanLayout_top (outputClock : Bool) (st : Byte) (trig rst : Triple Bool) :
    SameTopBits (euclideanLayout P outputClock st trig rst) st := by
  unfold euclideanLayout
  split
  · exact writeLowBits_top _ _ _ _ _
  · exact writeLowBits_top _ _ _ _ _

theorem drawPerturbations_frame :
    drawPerturbations rnd pg = { pg with partPerturbation := (drawPerturbations rnd pg).partPerturbation } := by
  unfold drawPerturbations
  split <;> rfl

/-- No body writes the top two bits (R202, R206). -/
theorem evaluateBody_top : SameTopBits (evaluateBody P rnd pg).state pg.state := by
  rcases evaluateBody_cases P rnd pg with ⟨-, -, hdrums⟩ | ⟨-, -, -, heuclid⟩ | ⟨-, hsame⟩
  · rw [hdrums, evaluateDrums, drawPerturbations_frame]
    exact drumsLayout_top _ _ _ _ _ _
  · rw [heuclid]
    exact euclideanLayout_top _ _ _ _ _
  · rw [hsame]
    exact ⟨rfl, rfl⟩

theorem galoisStep_topBit (x : Half) : (galoisStep x).getLsbD 15 = decide (2 ^ 15 ≤ galois x.toNat) := by
  rw [← galoisStep_toNat]
  exact BitVec.msb_eq_decide (galoisStep x)

/-- Settles O36: the tick refreshes the top two bits before the body, which keeps them. -/
theorem pgTickRefreshesTheTopBits : Obligations.PgTickRefreshesTheTopBits := by
  intro n s
  obtain ⟨hclock, hrandom⟩ :=
    evaluateBody_top Config.params (galoisStep s.rnd) (refreshPg (galoisStep s.rnd) s.pg)
  refine ⟨pgTick Config.params n s, rfl, galoisStep_toNat s.rnd, ?clock, ?random⟩
  case clock => rw [pgTick_state, hclock]; exact refreshTopBits_clock _ _
  case random =>
    rw [pgTick_state, hrandom, ← galoisStep_topBit]
    exact refreshTopBits_random _ _

end Sys2Proof.PatternTick
end

section
/-! The Drums body (spec/42_pattern.md R197 to R202) in the integers of the statements. -/

namespace Sys2Proof.DrumsBody

open Sys2Proof.Machine Sys2Proof.Rules Sys2Proof.Laws Sys2Proof.GaloisStep Sys2Proof.PatternTick

variable (P : Params) (rnd : Half) (pg : Pg)

/-! ### The blend of the drum maps (R197, R200) -/

/-- A blend is at most 254, so narrowing it to a u8 loses nothing. -/
theorem u8Mix_toNat (a b w : Byte) : (u8Mix a b w).toNat = mix a.toNat b.toNat w.toNat := by
  have ha : a.toNat * (255 - w.toNat) ≤ 255 * (255 - w.toNat) := Nat.mul_le_mul_right _ (by omega)
  have hb : b.toNat * w.toNat ≤ 255 * w.toNat := Nat.mul_le_mul_right _ (by omega)
  rw [u8Mix, BitVec.toNat_ofNat, Nat.shiftRight_eq_div_pow, mix]
  exact Nat.mod_eq_of_lt (by omega)

theorem shiftLeft_two_toNat (x : Byte) : (x <<< 2).toNat = x.toNat * 4 % 256 := by
  rw [BitVec.toNat_shiftLeft, Nat.shiftLeft_eq]

theorem mk_eq_ofNat {n m : Nat} [NeZero n] (h : m < n) : (⟨m, h⟩ : Fin n) = Fin.ofNat n m :=
  Fin.ext (Nat.mod_eq_of_lt h).symm

theorem readDrumMap_toNat (step : BitVec 5) (part : Fin 3) (x y : Byte) :
    (readDrumMap P step part x y).toNat = drumMapLevel P step.toNat part.val x.toNat y.toNat := by
  simp only [readDrumMap, drumMapLevel, u8Mix_toNat, shiftLeft_two_toNat, mk_eq_ofNat]
  rfl

/-! ### Perturbations, triggers and accents (R199, R201) -/

/-- A perturbation is the integers' product of a top byte and a quarter of the randomness, over 256. -/
theorem perturbation_toNat (randomness : Byte) :
    (perturbation rnd randomness).toNat = rnd.toNat / 256 * (randomness.toNat / 4) / 256 := by
  have hprod : rnd.toNat / 256 * (randomness.toNat / 4) ≤ 255 * 63 := Nat.mul_le_mul (by omega) (by omega)
  have hquarter : randomness.toNat >>> 2 = randomness.toNat / 4 := Nat.shiftRight_eq_div_pow _ 2
  rw [perturbation, BitVec.toNat_ofNat, topByte_toNat, hquarter, Nat.shiftRight_eq_div_pow]
  exact Nat.mod_eq_of_lt (by omega)

/-- The perturbations are drawn at step 0 and held at the others. -/
theorem drawPerturbations_cell (i : Fin 3) :
    cell (drawPerturbations rnd pg).partPerturbation i = pertOf rnd.toNat pg i := by
  have hstep : pg.step = 0 ↔ pg.step.toNat = 0 := (BitVec.toNat_inj (y := 0#5)).symm
  rw [drawPerturbations, pertOf, ← perturbation_toNat, apply_ite Pg.partPerturbation, apply_ite (cell · i)]
  exact if_congr hstep (congrArg BitVec.toNat (get_ofFn _ i)) rfl

theorem drumLevel_eq (i : Fin 3) : drumLevel P pg i = levelWith P pg (cell pg.partPerturbation i) i := by
  rw [drumLevel, readDrumMap_toNat]
  rfl

theorem drumTrigger_eq (i : Fin 3) : drumTrigger P pg i = drumTrig P pg (cell pg.partPerturbation i) i := by
  rw [drumTrigger, drumLevel_eq]
  rfl

theorem drumAccent_eq (i : Fin 3) : drumAccent P pg i = drumAcc P pg (cell pg.partPerturbation i) i := by
  rw [drumAccent, drumTrigger_eq, drumLevel_eq, drumTrig, drumAcc, Bool.decide_and]

/-! ### The layout (R202) -/

theorem lowBits_writeLowBits (st : Byte) (b5 b4 b3 : Bool) (trig : Triple Bool) :
    lowBits (writeLowBits st b5 b4 b3 trig) trig.get b3 b4 b5 := by
  obtain ⟨htrig, h3, h4, h5, -⟩ := writeLowBits_bits st b5 b4 b3 trig
  exact ⟨htrig, h3, h4, h5⟩

theorem clockModeBit4_eq (st : Byte) : clockModeBit4 P st = bit4 P (st.getLsbD 6) := by
  unfold clockModeBit4 bit4
  cases P.pgClkmodeBit4 <;> rfl

/-- The low bits of the Drums layout, for triggers and accents given by part. -/
theorem lowBits_drumsLayout (outputClock : Bool) (step : BitVec 5) (st : Byte) (trig acc : Fin 3 → Bool) :
    let out := drumsLayout P outputClock step st (Triple.ofFn trig) (Triple.ofFn acc)
    if outputClock then
      lowBits out trig (acc 0 || acc 1 || acc 2) (bit4 P (st.getLsbD 6)) (decide (step.toNat = 0))
    else lowBits out trig (acc 0) (acc 1) (acc 2) := by
  have hstep : decide (step = 0) = decide (step.toNat = 0) := decide_eq_decide.mpr (BitVec.toNat_inj (y := 0#5)).symm
  have htrig : (Triple.ofFn trig).get = trig := funext (get_ofFn trig)
  cases outputClock with
  | true =>
    rw [← clockModeBit4_eq, ← hstep, ← htrig]
    exact lowBits_writeLowBits st _ _ _ _
  | false =>
    rw [← htrig]
    exact lowBits_writeLowBits st _ _ _ _

/-! ### The tick -/

theorem evaluateBody_of_drumsRuns (h : DrumsRuns pg) : evaluateBody P rnd pg = evaluateDrums P rnd pg := by
  obtain ⟨hpulse, hmode⟩ := h
  have hzero : pg.pulse = 0 := BitVec.toNat_inj.mp hpulse
  rw [evaluateBody, if_neg (not_not.mpr hzero), hmode]

/-- The state a Drums body writes, its triggers and accents at the perturbations it drew. -/
theorem evaluateDrums_state :
    (evaluateDrums P rnd pg).state =
      drumsLayout P pg.options.outputClock pg.step pg.state
        (Triple.ofFn fun i => drumTrig P pg (pertOf rnd.toNat pg i) i)
        (Triple.ofFn fun i => drumAcc P pg (pertOf rnd.toNat pg i) i) := by
  have htrig : drumTrigger P (drawPerturbations rnd pg) = fun i => drumTrig P pg (pertOf rnd.toNat pg i) i := by
    funext i
    rw [drumTrigger_eq, drawPerturbations_cell, drawPerturbations_frame]
    rfl
  have hacc : drumAccent P (drawPerturbations rnd pg) = fun i => drumAcc P pg (pertOf rnd.toNat pg i) i := by
    funext i
    rw [drumAccent_eq, drawPerturbations_cell, drawPerturbations_frame]
    rfl
  rw [evaluateDrums, writeDrums, htrig, hacc, drawPerturbations_frame]

/-- Settles O38: the body runs on the refreshed registers, whose settings, step and perturbations are the state's own
and whose clock bit is the inverted one. -/
theorem drumsTickWritesTriggersAndAccents : Obligations.DrumsTickWritesTriggersAndAccents := by
  intro n s hruns pert acc
  have hbody : evaluateBody Config.params (galoisStep s.rnd) (refreshPg (galoisStep s.rnd) s.pg) =
      evaluateDrums Config.params (galoisStep s.rnd) (refreshPg (galoisStep s.rnd) s.pg) :=
    evaluateBody_of_drumsRuns _ _ _ hruns
  have hpert : pert = pertOf (galoisStep s.rnd).toNat s.pg := by rw [galoisStep_toNat]
  refine ⟨pgTick Config.params n s, rfl, fun i => ?perturbations, ?layout⟩
  case perturbations =>
    rw [pgTick_partPerturbation, hbody, evaluateDrums_frame, hpert]
    exact drawPerturbations_cell _ _ i
  case layout =>
    rw [pgTick_state, hbody, evaluateDrums_state, ← refreshTopBits_clock (galoisStep s.rnd) s.pg.state]
    simp only [acc, hpert]
    exact lowBits_drumsLayout _ _ _ _ _ _

end Sys2Proof.DrumsBody
end

section
/-! A render with the gate open (spec/43_oscillator.md R255, R260): the recomputed increment, and the sample loop of a
shape that clocks a noise register at the phase's wraps (R265, R266) in closed form. -/

namespace Sys2Proof.ClockedRender

open Sys2Proof.Machine Sys2Proof.Rules Sys2Proof.Laws Sys2Proof.PhaseIncrement

variable {P : Params}

/-! ### The recompute (R255) -/

/-- The oscillator as a render with the gate open starts from it. -/
def refreshed (P : Params) (o : Osc) : Osc := { o with phaseIncrement := renderIncrement P o, dirty := false }

theorem recompute_eq_refreshed {o : Osc} (hpitch : PitchInTable P o) : recompute P o = refreshed P o := by
  obtain ⟨hincrement, -, -⟩ := phaseIncrementFoldsByOctaves P o.pitch (isNoise o.shape) hpitch
  have hfresh : computePhaseIncrement P o.pitch (isNoise o.shape) =
      BitVec.ofNat 24 (increment P o.pitch.toInt (isNoise o.shape)) := by
    rw [← hincrement, BitVec.ofNat_toNat, BitVec.setWidth_eq]
  rw [recompute, refreshed, renderIncrement, hfresh]
  split
  · rfl
  · next hdirty => rw [← Bool.eq_false_iff.mpr hdirty]

/-- With room, an open gate and a pitch the table serves, a render is the sample loop of its shape. -/
theorem oscRender_open {s : State} (hroom : HasRoom P s) (hgate : s.osc.gate = true) (hpitch : PitchInTable P s.osc) :
    oscRender P s =
      renderSamples (shapeSample P s.osc.shape) P.oscBlock (setOsc (refreshed P s.osc) s) := by
  have hfree : ¬ fifoFree P s < P.oscBlock := not_lt.mpr hroom
  rw [oscRender, if_neg hfree, if_pos hgate, recompute_eq_refreshed hpitch]

/-! ### Samples of a clocked register -/

/-- One sample of a noise shape: its register, stepped if the phase wraps, and that register's level. -/
def clockedSample (stepRng : Half → Half) (level : Half → Sample) (o : Osc) : Osc :=
  { advancePhase o with rng := clockedRng stepRng o, sample := level (clockedRng stepRng o) }

theorem noiseSample_eq_clockedSample : noiseSample = clockedSample galoisStep noiseLevel := rfl

/-- The phase sum after `k` samples at the increment held, not reduced (R260). -/
def phaseTotal (o : Osc) (k : Nat) : Nat := o.phase.toNat + k * o.phaseIncrement.toNat

/-- The register after `k` samples: one step for each multiple of `2^24` that the phase sum has passed. -/
def rngTotal (stepRng : Half → Half) (o : Osc) (k : Nat) : Half := stepRng^[phaseTotal o k / 2 ^ 24] o.rng

/-- The oscillator after `k` samples. -/
def oscAfter (stepRng : Half → Half) (level : Half → Sample) (o : Osc) (k : Nat) : Osc :=
  { o with
    phase := BitVec.ofNat 24 (phaseTotal o k)
    rng := rngTotal stepRng o k
    sample := if k = 0 then o.sample else level (rngTotal stepRng o k) }

variable (stepRng : Half → Half) (level : Half → Sample) (o : Osc) (k : Nat)

theorem phaseTotal_succ : phaseTotal o (k + 1) = phaseTotal o k + o.phaseIncrement.toNat := by
  rw [phaseTotal, phaseTotal, Nat.succ_mul, Nat.add_assoc]

theorem phaseSum_oscAfter :
    phaseSum (oscAfter stepRng level o k) = phaseTotal o k % 2 ^ 24 + o.phaseIncrement.toNat := by
  rw [phaseSum, oscAfter, BitVec.toNat_ofNat]

/-- The reduced phase wraps when the sum passes a multiple of `2^24`; an increment passes at most one. -/
theorem clockedRng_oscAfter : clockedRng stepRng (oscAfter stepRng level o k) = rngTotal stepRng o (k + 1) := by
  have hsucc := phaseTotal_succ o k
  have hincrement := o.phaseIncrement.isLt
  rw [clockedRng, phaseWraps, phaseSum_oscAfter]
  split
  · next hwrap =>
    have hdiv : phaseTotal o (k + 1) / 2 ^ 24 = phaseTotal o k / 2 ^ 24 + 1 := by
      have := of_decide_eq_true hwrap
      omega
    rw [rngTotal, hdiv, Function.iterate_succ_apply']
    rfl
  · next hwrap =>
    have hdiv : phaseTotal o (k + 1) / 2 ^ 24 = phaseTotal o k / 2 ^ 24 := by
      have := of_decide_eq_false (Bool.eq_false_iff.mpr hwrap)
      omega
    rw [rngTotal, hdiv]
    rfl

theorem clockedSample_oscAfter :
    clockedSample stepRng level (oscAfter stepRng level o k) = oscAfter stepRng level o (k + 1) := by
  have hphase : BitVec.ofNat 24 (phaseSum (oscAfter stepRng level o k)) = BitVec.ofNat 24 (phaseTotal o (k + 1)) := by
    apply BitVec.eq_of_toNat_eq
    rw [phaseSum_oscAfter, phaseTotal_succ, BitVec.toNat_ofNat, BitVec.toNat_ofNat, Nat.mod_add_mod]
  rw [clockedSample, advancePhase, clockedRng_oscAfter, hphase]
  rfl

theorem iterate_clockedSample : (clockedSample stepRng level)^[k] o = oscAfter stepRng level o k := by
  induction k with
  | zero => simp [oscAfter, rngTotal, phaseTotal, Nat.div_eq_of_lt o.phase.isLt]
  | succ k ih => rw [Function.iterate_succ_apply', ih, clockedSample_oscAfter]

/-! ### The render -/

variable {stepRng level} {stepNat : Nat → Nat} {levelNat : Nat → Sample}

/-- A render starts at its own increment, so its register is the one that the statements count. -/
theorem rngTotal_toNat (hstep : ∀ x, (stepRng x).toNat = stepNat x.toNat) :
    (rngTotal stepRng (refreshed P o) k).toNat = rngAfter stepNat P o k := by
  have htoNat : Function.Semiconj BitVec.toNat stepRng stepNat := hstep
  exact (htoNat.iterate_right _).eq o.rng

/-- A noise shape's render in closed form, its step and its level given in integers. -/
theorem oscRender_clocked (hstep : ∀ x, (stepRng x).toNat = stepNat x.toNat)
    (hlevel : ∀ x, level x = levelNat x.toNat) {s : State} (hroom : HasRoom P s) (hgate : s.osc.gate = true)
    (hpitch : PitchInTable P s.osc) (hshape : shapeSample P s.osc.shape = clockedSample stepRng level) :
    oscRender P s =
      rendered P (fun k => levelNat (rngAfter stepNat P s.osc k))
        (BitVec.ofNat 16 (rngAfter stepNat P s.osc P.oscBlock)) s.osc.auxPhase s := by
  have hrng (k : Nat) := rngTotal_toNat (P := P) s.osc k hstep
  have hregister : rngTotal stepRng (refreshed P s.osc) P.oscBlock =
      BitVec.ofNat 16 (rngAfter stepNat P s.osc P.oscBlock) := by
    rw [← hrng, BitVec.ofNat_toNat, BitVec.setWidth_eq]
  have hsample (k : Nat) (hk : k ≠ 0) :
      (oscAfter stepRng level (refreshed P s.osc) k).sample = levelNat (rngAfter stepNat P s.osc k) := by
    rw [oscAfter, if_neg hk, hlevel, hrng]
  have hlast := hsample P.oscBlock (Nat.pos_iff_ne_zero.mp P.oscBlock_pos)
  rw [oscRender_open hroom hgate hpitch, hshape, renderSamples_eq]
  simp only [setOsc_osc, setOsc_fifo, iterate_clockedSample, hsample _ (Nat.succ_ne_zero _)]
  rw [rendered, ← hregister, ← hlast]
  rfl

theorem rendered_drop_fifo (f : Nat → Sample) (rng auxPhase : Half) (s : State) :
    (rendered P f rng auxPhase s).fifo.drop s.fifo.length = (List.range P.oscBlock).map fun k => f (k + 1) :=
  List.drop_left

end Sys2Proof.ClockedRender
end

section
/-! RenderNoise (spec/43_oscillator.md R266) in the integers of the statements. -/

namespace Sys2Proof.NoiseRender

open Sys2Proof.Machine Sys2Proof.Rules Sys2Proof.GaloisStep Sys2Proof.ClockedRender

theorem noiseLevel_eq (x : Half) : noiseLevel x = noiseLevelOf x.toNat := by
  have hlow : (x &&& 0x0FFF#16).toNat = x.toNat % 4096 := by
    rw [BitVec.toNat_and]
    exact Nat.and_two_pow_sub_one_eq_mod x.toNat 12
  rw [noiseLevel, noiseLevelOf, hlow, Nat.shiftRight_eq_div_pow]

theorem noiseLevelOf_range (r : Nat) : 512 ≤ (noiseLevelOf r).toNat ∧ (noiseLevelOf r).toNat ≤ 3583 := by
  have hscaled : r % 4096 * 3 / 4 ≤ 3071 := by omega
  rw [noiseLevelOf, BitVec.toNat_ofNat, Nat.mod_eq_of_lt (by omega)]
  omega

/-- Settles O57: noise is a clocked render of the Galois step, and every level lies in the range. -/
theorem renderNoiseStaysInItsRange : Obligations.RenderNoiseStaysInItsRange := by
  refine ⟨fun r hr => (galois_pos hr).ne', fun s hroom hgate hpitch hshape => ?_⟩
  have hsample : shapeSample Config.params s.osc.shape = clockedSample galoisStep noiseLevel := by
    rw [hshape]; exact noiseSample_eq_clockedSample
  refine ⟨_, congrArg Host.Outcome.next
    (oscRender_clocked galoisStep_toNat noiseLevel_eq hroom hgate hpitch hsample), rfl, ?range⟩
  case range =>
    rw [rendered_drop_fifo]
    simp only [List.forall_mem_map]
    exact fun k _ => noiseLevelOf_range _

end Sys2Proof.NoiseRender
end

section
/-! The CLK commands but CLK_WRAP (spec/41_clock.md R160 to R162, R164 to R169). -/

namespace Sys2Proof.ClockCommands

open Sys2Proof.Machine Sys2Proof.Rules Sys2Proof.CommandPort

/-! ### The clock's operations in integers -/

/-- R161 with the BPM's range and the resolution's two low bits in integers. -/
theorem clkUpdate_eq (P : Params) (res : Byte) (bpm : Half) (s : State) :
    clkUpdate P res bpm s =
      if 2 < res.toNat then latched 5 (encode (.clkUpdate res bpm)) s
      else if bpm.toNat < P.clkBpmMin.toNat ∨ P.clkBpmMax.toNat < bpm.toNat then
        latched 6 (encode (.clkUpdate res bpm)) s
      else { s with clk := { s.clk with
        bpm := bpm, phaseIncrement := P.clockIncrement bpm (BitVec.ofNat 2 res.toNat) } } := by
  rw [BitVec.ofNat_toNat]
  rfl

theorem tickClk_eq (c : Clk) :
    tickClk c = { c with phase := BitVec.ofNat 32 ((c.phase.toNat + c.phaseIncrement.toNat) % 2 ^ 32) } := by
  have hsum : c.phase + c.phaseIncrement = BitVec.ofNat 32 ((c.phase.toNat + c.phaseIncrement.toNat) % 2 ^ 32) := by
    rw [← BitVec.toNat_add, BitVec.ofNat_toNat, BitVec.setWidth_eq]
  rw [tickClk, hsum]

theorem bit_decide (p : Prop) [Decidable p] : bit (decide p) = BitVec.ofNat 32 (if p then 1 else 0) := by
  split
  · next hp => rw [decide_eq_true hp]; rfl
  · next hp => rw [decide_eq_false hp]; rfl

theorem bit_eq_ite (b : Bool) : bit b = BitVec.ofNat 32 (if b then 1 else 0) := by
  rw [← bit_decide, Bool.decide_coe]

/-- The falling edge's comparison is on the phase's top byte. -/
theorem pastFallingEdge_eq (c : Clk) :
    pastFallingEdge c = decide (c.fallingEdge.toNat ≤ c.phase.toNat / 2 ^ 24) := by
  have htop : (c.phase.extractLsb' 24 8).toNat = c.phase.toNat / 2 ^ 24 := by
    rw [BitVec.extractLsb'_toNat, Nat.shiftRight_eq_div_pow]
    exact Nat.mod_eq_of_lt (by omega)
  rw [← htop]
  rfl

/-! ### The commands -/

/-- Settles O25: the parameters' ranges are conditions that every parameter set carries. -/
theorem clkInitSetsDefaults : Obligations.ClkInitSetsDefaults := by
  refine ⟨encodedAs_of_row (f := .N) rfl, ⟨?min, ?max, ?res⟩, fun _ => rfl⟩
  case min => exact Config.params.clkBpmMin_le_init
  case max => exact Config.params.clkInitBpm_le_max
  case res => exact Config.params.clkInitRes_le

/-- Settles O26: the bound on the increment is a condition that every parameter set carries. -/
theorem clkUpdateSetsTempo : Obligations.ClkUpdateSetsTempo := by
  refine ⟨encodedAs_of_row (f := .BH) rfl, fun bpm res hmin hmax hres => ?increment,
    fun res bpm s => congrArg Host.Outcome.next (clkUpdate_eq Config.params res bpm s)⟩
  case increment =>
    obtain ⟨hpos, hlt⟩ := Config.params.clockIncrement_legal bpm res hmin hmax hres
    exact ⟨hpos, Nat.le_sub_one_of_lt hlt⟩

/-- Settles O27: the vectors' addition is the integers' modulo 2^32. -/
theorem clkTickAddsModulo2To32 : Obligations.ClkTickAddsModulo2To32 :=
  ⟨encodedAs_of_row (f := .N) rfl, fun s => congrArg (fun c => Host.Outcome.next (setClk c s)) (tickClk_eq s.clk)⟩

/-- Settles O29: the three are single writes of one clock register. -/
theorem clkResetLockUnlock : Obligations.ClkResetLockUnlock :=
  ⟨encodedAs_of_row (f := .N) rfl, encodedAs_of_row (f := .N) rfl, encodedAs_of_row (f := .N) rfl,
    fun _ => ⟨rfl, rfl, rfl⟩⟩

/-- Settles O30: each query answers its predicate as one bit. -/
theorem clkQueriesAnswerThePredicates : Obligations.ClkQueriesAnswerThePredicates := by
  refine ⟨encodedAs_of_row (f := .N) rfl, encodedAs_of_row (f := .N) rfl, encodedAs_of_row (f := .N) rfl,
    fun s => ⟨?rising, ?fallen, ?locked⟩⟩
  case rising => exact congrArg (fun v => Host.Outcome.next (respond v s)) (bit_decide _)
  case fallen =>
    rw [Answers, ← bit_decide, ← pastFallingEdge_eq]
    rfl
  case locked => exact congrArg (fun v => Host.Outcome.next (respond v s)) (bit_eq_ite _)

end Sys2Proof.ClockCommands
end

section
/-! Runs of several commands (spec/30_encoding.md R100, spec/60_exceptions.md R305): the host presents a list of them,
and the steps perform one after the other. -/

namespace Sys2Proof.CommandRuns

open Sys2Proof.Machine Sys2Proof.Rules Sys2Proof.RepeatedCommand

theorem run_add_of_next {M : Host.Core} {m : Nat} {s t : M.State} (h : M.run m s = .next t) (n : Nat) :
    M.run (m + n) s = M.run n t := by
  induction m generalizing s with
  | zero =>
    obtain rfl : s = t := Host.Outcome.next.inj h
    rw [Nat.zero_add]
  | succ m ih =>
    rw [Nat.succ_add]
    cases hstep : M.step s with
    | next u =>
      rw [run_succ_of_next hstep] at h ⊢
      exact ih h
    | fault r => rw [Host.Core.run, hstep] at h; cases h
    | refused r => rw [Host.Core.run, hstep] at h; cases h

/-- Presented to a CORE with FAULT 0, the commands take the state to `f` of it and raise no fault, whatever the host is
about to do next. -/
structure Runs (is : List Instr) (f : State → State) : Prop where
  run_eq : ∀ {s : State}, s.fault = false → ∀ rest,
    Host.Core.run Sys2Proof.core is.length (setHost (presents is ++ rest) s) = .next (setHost rest (f s))
  fault_eq : ∀ s, (f s).fault = s.fault

variable {i : Instr} {is js : List Instr} {f g : State → State}

theorem runs_nil : Runs [] id where
  run_eq _ _ := rfl
  fault_eq _ := rfl

theorem runs_single (hf : Performs i f) : Runs [i] f where
  run_eq hs rest := run_succ_of_next (step_presented hf hs rest) 0
  fault_eq := hf.fault_eq

theorem Runs.append (hf : Runs is f) (hg : Runs js g) : Runs (is ++ js) (g ∘ f) where
  run_eq {s} hs rest := by
    have hfirst := hf.run_eq hs (presents js ++ rest)
    have hsecond := hg.run_eq ((hf.fault_eq s).trans hs) rest
    rw [List.length_append, presents, List.map_append, List.append_assoc]
    exact (run_add_of_next hfirst js.length).trans hsecond
  fault_eq s := (hg.fault_eq (f s)).trans (hf.fault_eq s)

theorem Runs.replicate (hf : Runs is f) (k : Nat) : Runs (List.replicate k is).flatten f^[k] := by
  induction k with
  | zero => exact runs_nil
  | succ k ih => exact hf.append ih

theorem Runs.after_eq (hf : Runs is f) {s : State} (hs : s.fault = false) : after is s = setHost s.host (f s) := by
  have hrun := hf.run_eq hs s.host
  simp only [setHost] at hrun
  rw [after, hrun]
  rfl

end Sys2Proof.CommandRuns
end

section
/-! The tick sequences of R170 (spec/41_clock.md): CLK_TICK, CLK_WRAP and CLK_RISING as one map of states, and its
iterates in closed form. -/

namespace Sys2Proof.TickSequences

open Sys2Proof.Machine Sys2Proof.Rules Sys2Proof.RepeatedCommand Sys2Proof.CommandRuns Sys2Proof.ClockWrap
  Sys2Proof.ClockCommands

/-! ### One sequence as a map of states -/

/-- The clock after CLK_TICK and CLK_WRAP. -/
def sequenceClk (amount : Byte) (c : Clk) : Clk := wrapClk (swingAmount amount) (tickClk c)

/-- The state after CLK_TICK, CLK_WRAP and CLK_RISING. -/
def sequenceState (amount : Byte) (s : State) : State :=
  respond (bit (risingEdge (sequenceClk amount s.clk))) (setClk (sequenceClk amount s.clk) s)

theorem clkTick_performs : Performs .clkTick fun s => setClk (tickClk s.clk) s where
  exec_eq _ := rfl
  fault_eq _ := rfl
  setHost_eq _ _ := rfl

theorem clkWrap_performs {amount : Byte} (hamount : amount ≠ 0x80) :
    Performs (.clkWrap amount) fun s => setClk (wrapClk (swingAmount amount) s.clk) s where
  exec_eq _ :=
    have hswing : swingAmount amount ≠ -128 := fun h => hamount (BitVec.eq_of_toInt_eq h)
    congrArg Host.Outcome.next (if_neg hswing)
  fault_eq _ := rfl
  setHost_eq _ _ := rfl

theorem clkRising_performs : Performs .clkRising fun s => respond (bit (risingEdge s.clk)) s where
  exec_eq _ := rfl
  fault_eq _ := rfl
  setHost_eq _ _ := rfl

theorem sequence_runs {amount : Byte} (hamount : amount ≠ 0x80) :
    Runs [.clkTick, .clkWrap amount, .clkRising] (sequenceState amount) :=
  ((runs_single clkTick_performs).append (runs_single (clkWrap_performs hamount))).append
    (runs_single clkRising_performs)

theorem after_tickSequences {amount : Byte} {s : State} (h : TickLawApplies amount s) (k : Nat) :
    after (tickSequences amount k) s = setHost s.host ((sequenceState amount)^[k] s) :=
  ((sequence_runs h.amount_ne).replicate k).after_eq h.running

/-! ### One sequence in integers -/

variable {amount : Byte} {s : State}

theorem wrapPoint_le (amount : Byte) : wrapPoint amount ≤ 2 ^ 32 := by
  have := BitVec.toInt_lt (x := amount)
  rw [wrapPoint]
  omega

/-- A tick from below the wrap point does not wrap at 2^32. -/
theorem tick_sum_lt (h : TickLawApplies amount s) :
    s.clk.phase.toNat + s.clk.phaseIncrement.toNat < 2 ^ 32 := by
  obtain ⟨-, -, -, hinc, hphase, hfits⟩ := h
  rcases lt_or_ge 0 amount.toInt with hpos | hnonpos
  · have := hfits hpos
    omega
  · have : wrapPoint amount ≤ 2 ^ 31 := by rw [wrapPoint]; omega
    omega

/-- From below the wrap point, one conditional subtraction is the reduction. -/
theorem add_mod_of_lt {p inc w : Nat} (hp : p < w) (hinc : inc < w) :
    (p + inc) % w = if w ≤ p + inc then p + inc - w else p + inc := by
  rw [Nat.add_mod_eq_ite, Nat.mod_eq_of_lt hp, Nat.mod_eq_of_lt hinc]

theorem sequenceClk_eq (h : TickLawApplies amount s) :
    sequenceClk amount s.clk =
      { s.clk with
        phase := BitVec.ofNat 32 ((s.clk.phase.toNat + s.clk.phaseIncrement.toNat) % wrapPoint amount)
        fallingEdge := BitVec.ofNat 8 ((128 + amount.toInt).toNat / 2) } := by
  have hsum : (s.clk.phase + s.clk.phaseIncrement).toNat = s.clk.phase.toNat + s.clk.phaseIncrement.toNat :=
    BitVec.toNat_add_of_lt (tick_sum_lt h)
  by_cases hzero : amount.toInt = 0
  · have hpoint : wrapPoint amount = 2 ^ 31 := by rw [wrapPoint, hzero]; rfl
    rw [sequenceClk, show swingAmount amount = 0 from hzero, wrapClk_zero, tickClk, hsum, hpoint, hzero]
    rfl
  · rw [sequenceClk, wrapClk_swing hzero, tickClk, hsum, add_mod_of_lt h.phase_lt h.increment_lt,
      apply_ite (BitVec.ofNat 32), ← hsum, BitVec.ofNat_toNat, BitVec.setWidth_eq]

/-- The phase is below the increment after a tick exactly if the tick reached the wrap point. -/
theorem mod_lt_increment_iff {p inc w : Nat} (hp : p < w) (hinc : inc < w) : (p + inc) % w < inc ↔ w ≤ p + inc := by
  rw [add_mod_of_lt hp hinc]
  split
  · next hreach => exact iff_of_true (by omega) hreach
  · next hshort => exact iff_of_false (by omega) hshort

/-! ### Iterates -/

/-- The state with the three registers that a sequence writes set to the given values. The lemmas below hold for any
values; unfolding it at the wrap point's values has the kernel count to `2^24`. -/
def ticked (resp phase : Word) (edge : Byte) (s : State) : State :=
  { s with resp := resp, clk := { s.clk with phase := phase, fallingEdge := edge } }

section
variable (resp phase : Word) (edge : Byte) (s : State)

theorem ticked_fault : (ticked resp phase edge s).fault = s.fault := rfl
theorem ticked_phase : (ticked resp phase edge s).clk.phase = phase := rfl
theorem ticked_phaseIncrement : (ticked resp phase edge s).clk.phaseIncrement = s.clk.phaseIncrement := rfl

theorem ticked_ticked (resp' phase' : Word) (edge' : Byte) :
    ticked resp' phase' edge' (ticked resp phase edge s) = ticked resp' phase' edge' s := rfl

theorem setHost_ticked : setHost s.host (ticked resp phase edge s) = ticked resp phase edge s := rfl

end

/-- What `k + 1` sequences leave (R170). -/
def afterSequences (amount : Byte) (s : State) (k : Nat) : State :=
  ticked
    (if wrapPoint amount ≤
        (s.clk.phase.toNat + k * s.clk.phaseIncrement.toNat) % wrapPoint amount + s.clk.phaseIncrement.toNat
      then 1 else 0)
    (BitVec.ofNat 32 ((s.clk.phase.toNat + (k + 1) * s.clk.phaseIncrement.toNat) % wrapPoint amount))
    (BitVec.ofNat 8 ((128 + amount.toInt).toNat / 2)) s

theorem afterSequences_fault (amount : Byte) (s : State) (k : Nat) :
    (afterSequences amount s k).fault = s.fault := by
  rw [afterSequences, ticked_fault]

theorem afterSequences_phaseIncrement (amount : Byte) (s : State) (k : Nat) :
    (afterSequences amount s k).clk.phaseIncrement = s.clk.phaseIncrement := by
  rw [afterSequences, ticked_phaseIncrement]

theorem wrapPoint_pos (h : TickLawApplies amount s) : 0 < wrapPoint amount := Nat.zero_lt_of_lt h.phase_lt

theorem toNat_ofNat_mod_wrapPoint (h : TickLawApplies amount s) (x : Nat) :
    (BitVec.ofNat 32 (x % wrapPoint amount)).toNat = x % wrapPoint amount :=
  (BitVec.toNat_ofNat _ _).trans (Nat.mod_eq_of_lt ((Nat.mod_lt x (wrapPoint_pos h)).trans_le (wrapPoint_le amount)))

theorem risingEdge_sequenceClk (h : TickLawApplies amount s) :
    risingEdge (sequenceClk amount s.clk) =
      decide (wrapPoint amount ≤ s.clk.phase.toNat + s.clk.phaseIncrement.toNat) := by
  rw [sequenceClk_eq h, risingEdge, decide_eq_decide, BitVec.lt_def, toNat_ofNat_mod_wrapPoint h]
  exact mod_lt_increment_iff h.phase_lt h.increment_lt

theorem sequenceState_eq (h : TickLawApplies amount s) : sequenceState amount s = afterSequences amount s 0 := by
  rw [sequenceState, risingEdge_sequenceClk h, bit_decide, apply_ite (BitVec.ofNat 32), sequenceClk_eq h,
    afterSequences, Nat.zero_mul, Nat.add_zero, Nat.mod_eq_of_lt h.phase_lt, Nat.zero_add, Nat.one_mul]
  rfl

section
variable (h : TickLawApplies amount s) (k : Nat)
include h

theorem afterSequences_phase :
    (afterSequences amount s k).clk.phase.toNat =
      (s.clk.phase.toNat + (k + 1) * s.clk.phaseIncrement.toNat) % wrapPoint amount := by
  rw [afterSequences, ticked_phase, toNat_ofNat_mod_wrapPoint h]

/-- The law's conditions hold after a sequence, so it says what the next one does. -/
theorem tickLawApplies_afterSequences : TickLawApplies amount (afterSequences amount s k) where
  running := by rw [afterSequences_fault]; exact h.running
  amount_ne := h.amount_ne
  increment_pos := by rw [afterSequences_phaseIncrement]; exact h.increment_pos
  increment_lt := by rw [afterSequences_phaseIncrement]; exact h.increment_lt
  phase_lt := by rw [afterSequences_phase h]; exact Nat.mod_lt _ (wrapPoint_pos h)
  sum_fits := by rw [afterSequences_phaseIncrement]; exact h.sum_fits

theorem sequenceState_afterSequences :
    sequenceState amount (afterSequences amount s k) = afterSequences amount s (k + 1) := by
  rw [sequenceState_eq (tickLawApplies_afterSequences h k), afterSequences, afterSequences_phase h,
    afterSequences_phaseIncrement, afterSequences, ticked_ticked, afterSequences, Nat.zero_mul, Nat.add_zero,
    Nat.mod_mod, Nat.zero_add, Nat.one_mul, Nat.mod_add_mod, Nat.add_assoc, ← Nat.succ_mul]

end

theorem iterate_sequenceState (h : TickLawApplies amount s) (k : Nat) :
    (sequenceState amount)^[k + 1] s = afterSequences amount s k := by
  induction k with
  | zero => exact sequenceState_eq h
  | succ k ih => rw [Function.iterate_succ_apply', ih, sequenceState_afterSequences h]

/-- Settles O31: the sequences' iterates, whose every tick starts below the wrap point. -/
theorem tickSequencesWrapAtTheWrapPoint : Obligations.TickSequencesWrapAtTheWrapPoint := by
  intro amount s k h
  show after (tickSequences amount (k + 1)) s = afterSequences amount s k
  rw [after_tickSequences h, iterate_sequenceState h, afterSequences, setHost_ticked]

/-! ### Rising edges -/

/-- With `w` the wrap point, tick number `k + 1` of `inc` from the phase `p` reaches it (R170). -/
def Reaches (w p inc k : Nat) : Prop := w ≤ (p + k * inc) % w + inc

theorem risesAt_iff (h : TickLawApplies amount s) (k : Nat) :
    RisesAt amount s k ↔ Reaches (wrapPoint amount) s.clk.phase.toNat s.clk.phaseIncrement.toNat k := by
  rw [RisesAt, tickSequencesWrapAtTheWrapPoint amount s k h, Reaches]
  split
  · next hreach => exact iff_of_true rfl hreach
  · next hshort => exact iff_of_false (by decide : ¬ (0 : Word) = 1) hshort

variable {w p inc j k : Nat}

/-- A tick adds to the laps of the wrap point exactly if it reaches it. -/
theorem laps_succ (hinc : inc < w) (k : Nat) :
    (p + (k + 1) * inc) / w = (p + k * inc) / w + if w ≤ (p + k * inc) % w + inc then 1 else 0 := by
  rw [Nat.succ_mul, ← Nat.add_assoc, Nat.add_div (by omega), Nat.div_eq_of_lt hinc, Nat.mod_eq_of_lt hinc,
    Nat.add_zero]

theorem laps_of_reaches (hinc : inc < w) (h : Reaches w p inc k) :
    (p + (k + 1) * inc) / w = (p + k * inc) / w + 1 :=
  (laps_succ hinc k).trans (congrArg _ (if_pos h))

theorem laps_of_not_reaches (hinc : inc < w) (h : ¬ Reaches w p inc k) :
    (p + (k + 1) * inc) / w = (p + k * inc) / w :=
  (laps_succ hinc k).trans (congrArg _ (if_neg h))

/-- Ticks that do not reach the wrap point leave the laps as they are. -/
theorem laps_between (hinc : inc < w) (hjk : j + 1 ≤ k) (hnone : ∀ m, j < m → m < k → ¬ Reaches w p inc m) :
    (p + k * inc) / w = (p + (j + 1) * inc) / w := by
  induction k, hjk using Nat.le_induction with
  | base => rfl
  | succ k hjk ih =>
    rw [laps_of_not_reaches hinc (hnone k hjk (Nat.lt_succ_self k))]
    exact ih fun m hj hk => hnone m hj (Nat.lt_succ_of_lt hk)

theorem ceil_le_iff (hpos : 0 < inc) {n : Nat} : (w + inc - 1) / inc ≤ n ↔ w ≤ n * inc := by
  rw [← Nat.ceilDiv_eq_add_pred_div, ceilDiv_le_iff_le_mul hpos, Nat.mul_comm]

theorem ceil_le_floor_succ (hpos : 0 < inc) : (w + inc - 1) / inc ≤ w / inc + 1 := by
  rw [← Nat.add_div_right w hpos]
  exact Nat.div_le_div_right (Nat.sub_le _ 1)

/-- From phase 0, as long as the sum stays below `w`, a tick reaches it exactly if its own sum does. -/
theorem reaches_from_zero_iff (hk : k * inc < w) : Reaches w 0 inc k ↔ w ≤ (k + 1) * inc := by
  rw [Reaches, Nat.zero_add, Nat.mod_eq_of_lt hk, Nat.succ_mul]

/-- From phase 0 the ticks reach the wrap point first at number `ceil(w / inc)`. -/
theorem first_reaches (hpos : 0 < inc) (hinc : inc < w) :
    Reaches w 0 inc ((w + inc - 1) / inc - 1) ∧ ∀ k < (w + inc - 1) / inc - 1, ¬ Reaches w 0 inc k := by
  have hceil : 0 < (w + inc - 1) / inc := Nat.div_pos (by omega) hpos
  have hbelow {k : Nat} (hk : k < (w + inc - 1) / inc) : k * inc < w :=
    not_le.mp fun hle => hk.not_ge ((ceil_le_iff hpos).mpr hle)
  refine ⟨?reached, fun k hk => ?early⟩
  case reached =>
    rw [reaches_from_zero_iff (hbelow (Nat.sub_lt hceil Nat.one_pos)), Nat.sub_add_cancel hceil]
    exact (ceil_le_iff hpos).mp le_rfl
  case early =>
    rw [reaches_from_zero_iff (hbelow (by omega)), not_le]
    exact hbelow (by omega)

/-- A lap is longer than the ticks strictly between the two that begin and end it, and shorter than those and the
two. -/
theorem lap_bounds (hinc : inc < w) (hjk : j < k) (hj : Reaches w p inc j) (hk : Reaches w p inc k)
    (hnone : ∀ m, j < m → m < k → ¬ Reaches w p inc m) :
    (k - j - 1) * inc < w ∧ w < (k - j + 1) * inc := by
  obtain ⟨d, rfl⟩ : ∃ d, k = j + 1 + d := ⟨k - (j + 1), by omega⟩
  have hw : 0 < w := Nat.zero_lt_of_lt hinc
  have hbegin := laps_of_reaches hinc hj
  have hlap := laps_between hinc hjk hnone
  have hend := laps_of_reaches hinc hk
  generalize hlaps : (p + j * inc) / w = q at hbegin
  -- The sums before and after the ticks `j` and `k`, against the two multiples of `w` that the lap lies between.
  have hj_before : p + j * inc < (q + 1) * w := (Nat.div_lt_iff_lt_mul hw).mp (by omega)
  have hj_after : (q + 1) * w ≤ p + (j + 1) * inc := (Nat.le_div_iff_mul_le hw).mp (by omega)
  have hk_before : p + (j + 1 + d) * inc < (q + 2) * w := (Nat.div_lt_iff_lt_mul hw).mp (by omega)
  have hk_after : (q + 2) * w ≤ p + (j + 1 + d + 1) * inc := (Nat.le_div_iff_mul_le hw).mp (by omega)
  rw [show j + 1 + d - j = d + 1 by omega, Nat.add_sub_cancel]
  constructor
  · linarith only [hj_after, hk_before]
  · linarith only [hj_before, hk_after]

/-- The ticks that reach the wrap point are `floor(w / inc)` or `ceil(w / inc)` apart. -/
theorem reaches_spacing (hpos : 0 < inc) (hinc : inc < w) (hjk : j < k) (hj : Reaches w p inc j)
    (hk : Reaches w p inc k) (hnone : ∀ m, j < m → m < k → ¬ Reaches w p inc m) :
    k - j = w / inc ∨ k - j = (w + inc - 1) / inc := by
  obtain ⟨hshort, hlong⟩ := lap_bounds hinc hjk hj hk hnone
  have hfloor : w / inc < k - j + 1 := (Nat.div_lt_iff_lt_mul hpos).mpr hlong
  have hceil : k - j - 1 < (w + inc - 1) / inc := not_le.mp fun hle => hshort.not_ge ((ceil_le_iff hpos).mp hle)
  have hgap := ceil_le_floor_succ (w := w) hpos
  omega

/-- Settles O32: the sequences that rise are the ticks that reach the wrap point. -/
theorem risingEdgesAreEvenlySpaced : Obligations.RisingEdgesAreEvenlySpaced := by
  intro amount s h inc top
  simp only [risesAt_iff h]
  refine ⟨fun hzero => ?first, fun j k hjk hj hk hnone => ?spacing⟩
  case first =>
    rw [hzero]
    exact first_reaches h.increment_pos h.increment_lt
  case spacing => exact reaches_spacing h.increment_pos h.increment_lt hjk hj hk hnone

end Sys2Proof.TickSequences
end

section
/-! The packed options byte (spec/42_pattern.md R210 to R212): the resolution in its low three bits and one bit for each
other field. -/

namespace Sys2Proof.PackedOptions

open Sys2Proof.Machine Sys2Proof.Rules

theorem append_toNat {m n : Nat} (x : BitVec m) (y : BitVec n) : (x ++ y).toNat = x.toNat * 2 ^ n + y.toNat := by
  rw [BitVec.toNat_append, ← Nat.shiftLeft_add_eq_or_of_lt y.isLt, Nat.shiftLeft_eq]

theorem toNat_getLsbD (v : Byte) (k : Nat) : (v.getLsbD k).toNat = bitOf v.toNat k := Nat.toNat_testBit _ _

theorem toNat_not (b : Bool) : (!b).toNat = 1 - b.toNat := by
  cases b <;> rfl

theorem ofBool_getLsbD (v : Byte) (k : Nat) : BitVec.ofBool (v.getLsbD k) = v.extractLsb' k 1 := by
  refine BitVec.eq_of_getLsbD_eq fun j hj => ?_
  obtain rfl : j = 0 := by omega
  simp

/-! ### Packing (R210) -/

theorem pack_toNat (o : Options) :
    (pack o).toNat = o.clockResolution.val + (1 - o.swing.toNat) * 8 + o.tapTempo.toNat * 16 +
      o.outputClock.toNat * 32 + (if o.outputMode = .drums then 64 else 0) + (1 - o.gateMode.toNat) * 128 := by
  have hres : (BitVec.ofNat 3 o.clockResolution.val).toNat = o.clockResolution.val :=
    Nat.mod_eq_of_lt (by omega)
  have hmode : (decide (o.outputMode = .drums)).toNat * 64 = if o.outputMode = .drums then 64 else 0 := by
    cases o.outputMode <;> rfl
  simp only [pack, append_toNat, BitVec.toNat_ofBool, toNat_not, hres, ← hmode]
  omega

/-- The fields of a packed byte, where unpacking looks for them. -/
theorem pack_fields (o : Options) :
    (pack o).extractLsb' 0 3 = BitVec.ofNat 3 o.clockResolution.val ∧ (pack o).getLsbD 3 = !o.swing ∧
    (pack o).getLsbD 4 = o.tapTempo ∧ (pack o).getLsbD 5 = o.outputClock ∧
    (pack o).getLsbD 6 = decide (o.outputMode = .drums) ∧ (pack o).getLsbD 7 = !o.gateMode := by
  refine ⟨BitVec.extractLsb'_append_eq_right, ?_, ?_, ?_, ?_, ?_⟩
  all_goals simp only [pack, BitVec.getLsbD_append, BitVec.getLsbD_ofBool]; rfl

theorem unpack_pack (o : Options) : unpack (pack o) = o := by
  obtain ⟨hres, hswing, htap, hclock, hmode, hgate⟩ := pack_fields o
  have hres' : min ((pack o).extractLsb' 0 3).toNat 2 = o.clockResolution.val := by
    rw [hres, BitVec.toNat_ofNat]
    omega
  have hmode' : (if (pack o).getLsbD 6 then OutputMode.drums else .euclidean) = o.outputMode := by
    rw [hmode]
    cases o.outputMode <;> rfl
  simp only [unpack, hres', hmode', hswing, htap, hclock, hgate, Bool.not_not]

/-! ### Unpacking (R211) -/

theorem lowBits_toNat (v : Byte) : (v.extractLsb' 0 3).toNat = v.toNat % 8 := BitVec.extractLsb'_toNat ..

theorem decide_unpack_outputMode (v : Byte) : decide ((unpack v).outputMode = .drums) = v.getLsbD 6 := by
  rw [unpack]
  cases v.getLsbD 6 <;> rfl

theorem unpack_outputMode (v : Byte) : (unpack v).outputMode = .drums ↔ bitOf v.toNat 6 = 1 := by
  rw [← toNat_getLsbD, ← decide_unpack_outputMode, Bool.toNat_eq_one, decide_eq_true_iff]

theorem extractLsb'_append_bit (v : Byte) (k n : Nat) :
    v.extractLsb' (k + 1) n ++ v.extractLsb' k 1 = v.extractLsb' k (n + 1) :=
  BitVec.extractLsb'_append_extractLsb'_eq_extractLsb' rfl

/-- Packing again keeps the five bits above the resolution (R212). -/
theorem pack_unpack_eq_append (v : Byte) :
    pack (unpack v) = v.extractLsb' 3 5 ++ BitVec.ofNat 3 (min (v.toNat % 8) 2) := by
  have hbits : v.extractLsb' 7 1 ++ v.extractLsb' 6 1 ++ v.extractLsb' 5 1 ++ v.extractLsb' 4 1 ++
      v.extractLsb' 3 1 = v.extractLsb' 3 5 := by
    simp only [extractLsb'_append_bit]
  rw [pack, decide_unpack_outputMode, ← hbits]
  simp only [unpack, Bool.not_not, ofBool_getLsbD, lowBits_toNat]

theorem append_lowBits (v : Byte) : v.extractLsb' 3 5 ++ v.extractLsb' 0 3 = v :=
  (BitVec.extractLsb'_append_extractLsb'_eq_extractLsb' rfl).trans BitVec.extractLsb'_eq_self

/-- Forcing the resolution to 2 is masking it out and setting its middle bit. -/
theorem mask_or_two (v : Byte) : (v &&& 0xF8) ||| 2 = v.extractLsb' 3 5 ++ 2#3 := by
  calc (v &&& 0xF8) ||| 2
      = ((v.extractLsb' 3 5 ++ v.extractLsb' 0 3) &&& (BitVec.allOnes 5 ++ 0#3)) ||| (0#5 ++ 2#3) := by
        rw [append_lowBits]; rfl
    _ = v.extractLsb' 3 5 ++ 2#3 := by
        rw [BitVec.and_append, BitVec.or_append, BitVec.and_allOnes, BitVec.or_zero, BitVec.and_zero, BitVec.zero_or]

theorem pack_unpack (v : Byte) : pack (unpack v) = if v.toNat % 8 ≤ 2 then v else (v &&& 0xF8) ||| 2 := by
  rw [pack_unpack_eq_append]
  split
  · next hle =>
    rw [Nat.min_eq_left hle, ← lowBits_toNat, BitVec.ofNat_toNat, BitVec.setWidth_eq, append_lowBits]
  · next hgt => rw [Nat.min_eq_right (by omega), mask_or_two]

/-- Settles O47: unpacking reads each field where packing puts it. -/
theorem packAndUnpackRoundTrip : Obligations.PackAndUnpackRoundTrip := by
  refine ⟨fun o => ⟨pack_toNat o, unpack_pack o⟩, fun v => ⟨?resolution, ?swing, toNat_getLsbD v 4, toNat_getLsbD v 5,
    unpack_outputMode v, ?gate, pack_unpack v⟩⟩
  case resolution => exact congrArg (min · 2) (lowBits_toNat v)
  case swing => exact (toNat_not _).trans (congrArg (1 - ·) (toNat_getLsbD v 3))
  case gate => exact (toNat_not _).trans (congrArg (1 - ·) (toNat_getLsbD v 7))

end Sys2Proof.PackedOptions
end

section
/-! The PG commands that write or answer registers without an evaluation (spec/42_pattern.md R190, R191, R207 to R209),
and the blend of R197. -/

namespace Sys2Proof.PatternCommands

open Sys2Proof.Machine Sys2Proof.Rules Sys2Proof.CommandPort

/-- Settles O33: PG_INIT is one write of the PG registers. -/
theorem pgInitLoadsSettings : Obligations.PgInitLoadsSettings :=
  ⟨encodedAs_of_row (f := .N) rfl, fun _ => rfl⟩

/-- Settles O34: PG_RESET is one write of the position. -/
theorem pgResetZeroesThePosition : Obligations.PgResetZeroesThePosition :=
  ⟨encodedAs_of_row (f := .N) rfl, fun _ => rfl⟩

/-- Settles O45: each query answers its register zero-extended. -/
theorem pgQueriesAnswerStateAndStep : Obligations.PgQueriesAnswerStateAndStep := by
  refine ⟨encodedAs_of_row (f := .N) rfl, encodedAs_of_row (f := .N) rfl, fun s => ⟨?state, ?step⟩⟩
  case state => exact congrArg (fun v => Host.Outcome.next (respond v s)) (BitVec.ofNat_toNat 32 s.pg.state).symm
  case step => exact congrArg (fun v => Host.Outcome.next (respond v s)) (BitVec.ofNat_toNat 32 s.pg.step).symm

/-- The PG registers with the setting that an index of 0 to 6 names set to `v` (R207). -/
def withSetting (idx v : Byte) (pg : Pg) : Pg :=
  { pg with
    opt := ⟨if idx = 0 then v else pg.opt.p0, if idx = 1 then v else pg.opt.p1, if idx = 2 then v else pg.opt.p2⟩
    density := ⟨if idx = 3 then v else pg.density.p0, if idx = 4 then v else pg.density.p1,
      if idx = 5 then v else pg.density.p2⟩
    options := if idx = 6 then unpack v else pg.options }

theorem eq_ofNat_of_toNat {b : Byte} {k : Nat} (h : b.toNat = k) : b = BitVec.ofNat 8 k := by
  rw [← h, BitVec.ofNat_toNat, BitVec.setWidth_eq]

theorem pgSet_eq (idx v : Byte) (s : State) :
    pgSet idx v s =
      if 6 < idx.toNat then raise .badIndex (encode (.pgSet idx v)) s else setPg (withSetting idx v s.pg) s := by
  unfold pgSet
  split
  -- The last arm is the one for an index above 6.
  case h_8 =>
    simp only [imp_false] at *
    rw [if_pos (show 6 < idx.toNat by omega)]
  all_goals
    next hidx =>
      obtain rfl := eq_ofNat_of_toNat hidx
      rfl

/-- Settles O44: the index names the setting, or is above 6. -/
theorem pgSetWritesOneSetting : Obligations.PgSetWritesOneSetting :=
  ⟨encodedAs_of_row (f := .BV) rfl, fun idx v s => congrArg Host.Outcome.next (pgSet_eq idx v s)⟩

/-- A blend's weights add up to 255 of 256, so it stays below what it blends. -/
theorem mix_le_max {a b w : Nat} (hw : w ≤ 255) : mix a b w ≤ max a b := by
  have hsum : a * (255 - w) + b * w ≤ max a b * 255 := by
    calc a * (255 - w) + b * w
        ≤ max a b * (255 - w) + max a b * w :=
          Nat.add_le_add (Nat.mul_le_mul_right _ (le_max_left a b)) (Nat.mul_le_mul_right _ (le_max_right a b))
      _ = max a b * 255 := by rw [← Nat.mul_add, Nat.sub_add_cancel hw]
  rw [mix]
  omega

/-- Settles O46. -/
theorem u8MixNeverExceedsItsInputs : Obligations.U8MixNeverExceedsItsInputs := by
  intro a b w
  have hmix := DrumsBody.u8Mix_toNat a b
  refine ⟨hmix w, ?bound, ?zero⟩
  case bound => rw [hmix]; exact mix_le_max (by omega)
  case zero => rw [hmix]; rw [mix, show (0 : Byte).toNat = 0 from rfl]; omega

end Sys2Proof.PatternCommands
end

section
/-! PG_TICK's evaluation and its counting of the pulses (spec/42_pattern.md R192, R196): which body runs, in the terms
of the statements, and what a tick leaves as it was. -/

namespace Sys2Proof.TickEvaluation

open Sys2Proof.Machine Sys2Proof.Rules Sys2Proof.Laws Sys2Proof.PatternTick Sys2Proof.CommandPort

variable (P : Params) (rnd : Half) (pg : Pg)

/-! ### Which body runs (R196) -/

theorem step_odd_iff : pg.step.getLsbD 0 = true ↔ pg.step.toNat % 2 = 1 := by
  rw [BitVec.getLsbD, Nat.testBit_zero, decide_eq_true_iff]

theorem pulse_zero_iff : pg.pulse = 0 ↔ pg.pulse.toNat = 0 := (BitVec.toNat_inj (y := 0#8)).symm

/-- A tick runs the Drums body, the Euclidean body, or none. -/
theorem evaluateBody_runs :
    (DrumsRuns pg ∧ ¬ EuclidRuns pg ∧ evaluateBody P rnd pg = evaluateDrums P rnd pg) ∨
    (EuclidRuns pg ∧ evaluateBody P rnd pg = evaluateEuclidean P pg) ∨
    (¬ DrumsRuns pg ∧ ¬ EuclidRuns pg ∧ evaluateBody P rnd pg = pg) := by
  rcases evaluateBody_cases P rnd pg with
    ⟨hpulse, hmode, hbody⟩ | ⟨hpulse, hmode, heven, hbody⟩ | ⟨hnone, hbody⟩
  · refine .inl ⟨⟨(pulse_zero_iff pg).mp hpulse, hmode⟩, fun ⟨_, heuclid, _⟩ => ?_, hbody⟩
    cases hmode.symm.trans heuclid
  · have hodd : ¬ pg.step.toNat % 2 = 1 := by rw [← step_odd_iff, heven]; decide
    exact .inr (.inl ⟨⟨(pulse_zero_iff pg).mp hpulse, hmode, by omega⟩, hbody⟩)
  · refine .inr (.inr ⟨fun ⟨hpulse, hdrums⟩ => ?_, fun ⟨hpulse, _, heven⟩ => ?_, hbody⟩)
    · rcases hnone with hne | ⟨heuclid, -⟩
      · exact hne ((pulse_zero_iff pg).mpr hpulse)
      · cases hdrums.symm.trans heuclid
    · rcases hnone with hne | ⟨-, hstep⟩
      · exact hne ((pulse_zero_iff pg).mpr hpulse)
      · have hodd := (step_odd_iff pg).mp hstep
        omega

theorem evaluateBody_of_euclidRuns {pg : Pg} (h : EuclidRuns pg) : evaluateBody P rnd pg = evaluateEuclidean P pg := by
  rcases evaluateBody_runs P rnd pg with ⟨-, hno, -⟩ | ⟨-, hbody⟩ | ⟨-, hno, -⟩
  · exact absurd h hno
  · exact hbody
  · exact absurd h hno

theorem evaluateBody_of_no_body {pg : Pg} (hdrums : ¬ DrumsRuns pg) (heuclid : ¬ EuclidRuns pg) :
    evaluateBody P rnd pg = pg := by
  rcases evaluateBody_runs P rnd pg with ⟨h, -, -⟩ | ⟨h, -⟩ | ⟨-, -, hbody⟩
  · exact absurd h hdrums
  · exact absurd h heuclid
  · exact hbody

/-- Settles O37: with no body, only the refresh writes the state, and it keeps the six bits. -/
theorem pgTickHoldsBitsWithoutABody : Obligations.PgTickHoldsBitsWithoutABody := by
  intro n s hdrums heuclid
  have hbody : evaluateBody Config.params (galoisStep s.rnd) (refreshPg (galoisStep s.rnd) s.pg) =
      refreshPg (galoisStep s.rnd) s.pg := evaluateBody_of_no_body _ _ hdrums heuclid
  refine ⟨pgTick Config.params n s, rfl, fun k hk => ?bits, ?perturbations⟩
  case bits =>
    rw [pgTick_state, hbody]
    exact refreshTopBits_low _ _ hk
  case perturbations =>
    rw [pgTick_partPerturbation, hbody]
    rfl

/-! ### What a tick writes (R192) -/

/-- Refresh and body write the Euclidean steps, the perturbations and the state, and nothing else. -/
theorem evaluateBody_refreshPg_frame :
    ∃ steps perts st, evaluateBody P rnd (refreshPg rnd pg) =
      { pg with euclideanStep := steps, partPerturbation := perts, state := st } := by
  rcases evaluateBody_runs P rnd (refreshPg rnd pg) with ⟨-, -, hbody⟩ | ⟨-, hbody⟩ | ⟨-, -, hbody⟩
  · exact ⟨_, _, _, hbody.trans (evaluateDrums_frame P rnd _)⟩
  · exact ⟨_, _, _, hbody.trans (evaluateEuclidean_frame P _)⟩
  · exact ⟨_, _, _, hbody⟩

theorem evaluateBody_refreshPg_step : (evaluateBody P rnd (refreshPg rnd pg)).step = pg.step := by
  obtain ⟨steps, perts, st, hbody⟩ := evaluateBody_refreshPg_frame P rnd pg
  rw [hbody]

theorem advancePulses_position (total : Nat) :
    advancePulses total pg =
      { pg with
        euclideanStep := (advancePulses total pg).euclideanStep
        pulse := BitVec.ofNat 8 (total % 3)
        step := BitVec.ofNat 5 (pg.step.toNat + total / 3) } := by
  rw [advancePulses_eq, advanceSteps_frame, advanceSteps_step]

/-- The pulse and the step after a tick, and its frame. -/
theorem pgTick_frame (n : Byte) (s : State) :
    let t := pgTick P n s
    let total := s.pg.pulse.toNat + n.toNat
    t = { s with
      rnd := t.rnd
      pg := { s.pg with
        state := t.pg.state, partPerturbation := t.pg.partPerturbation, euclideanStep := t.pg.euclideanStep
        pulse := BitVec.ofNat 8 (total % 3), step := BitVec.ofNat 5 (s.pg.step.toNat + total / 3) } } := by
  intro t total
  obtain ⟨steps, perts, st, hbody⟩ := evaluateBody_refreshPg_frame P (galoisStep s.rnd) s.pg
  have ht : t = setPg (advancePulses total
      { s.pg with euclideanStep := steps, partPerturbation := perts, state := st }) (setRnd (galoisStep s.rnd) s) :=
    congrArg (fun pg => setPg (advancePulses total pg) (setRnd (galoisStep s.rnd) s)) hbody
  rw [ht, advancePulses_position]
  rfl

/-- The Euclidean steps before the pulses are counted: reduced if the Euclidean body runs (R204). -/
theorem evaluateBody_euclideanStep (i : Fin 3) :
    cell (evaluateBody P rnd pg).euclideanStep i =
      if EuclidRuns pg then euclidPos pg i else cell pg.euclideanStep i := by
  rcases evaluateBody_runs P rnd pg with ⟨-, hno, hbody⟩ | ⟨hruns, hbody⟩ | ⟨-, hno, hbody⟩
  · rw [if_neg hno, hbody, evaluateDrums_frame]
  · have hpos : euclideanPosition pg i = euclidPos pg i := rfl
    have hle : euclidPos pg i ≤ cell pg.euclideanStep i := Nat.mod_le _ _
    have hlt : cell pg.euclideanStep i < 256 := BitVec.isLt _
    rw [if_pos hruns, hbody, evaluateEuclidean_frame, cell, get_ofFn, hpos, BitVec.toNat_ofNat]
    exact Nat.mod_eq_of_lt (by omega)
  · rw [if_neg hno, hbody]

/-- Settles O35: the body leaves the position alone and may reduce the Euclidean steps; the count moves both on. -/
theorem pgTickCountsPulsesAndSteps : Obligations.PgTickCountsPulsesAndSteps := by
  refine ⟨encodedAs_of_row (f := .B) rfl, fun n s => ⟨pgTick Config.params n s, rfl, pgTick_frame _ n s, fun i => ?_⟩⟩
  let body := evaluateBody Config.params (galoisStep s.rnd) (refreshPg (galoisStep s.rnd) s.pg)
  have hreduced := evaluateBody_euclideanStep Config.params (galoisStep s.rnd) (refreshPg (galoisStep s.rnd) s.pg) i
  have hcount := advanceSteps_euclideanStep ((s.pg.pulse.toNat + n.toNat) / 3) body i
  rw [evaluateBody_refreshPg_step] at hcount
  rw [pgTick, setPg_pg, advancePulses_eq]
  exact hcount.trans (congrArg (fun m => (m + evenSteps _ _) % 256) hreduced)

end Sys2Proof.TickEvaluation
end

section
/-! The Euclidean body (spec/42_pattern.md R204, R206) in the integers of the statements. -/

namespace Sys2Proof.EuclideanBody

open Sys2Proof.Machine Sys2Proof.Rules Sys2Proof.Laws Sys2Proof.PatternTick Sys2Proof.DrumsBody
  Sys2Proof.TickEvaluation

variable (P : Params) (pg : Pg)

/-- A trigger is the pattern word's bit at the reduced step (R204, R82). -/
theorem euclideanWord_bit (i : Fin 3) :
    (euclideanWord P pg i).getLsbD (euclideanPosition pg i) = euclidTrig P pg i := by
  rw [euclideanWord, mk_eq_ofNat]
  rfl

theorem evaluateEuclidean_state :
    (evaluateEuclidean P pg).state =
      euclideanLayout P pg.options.outputClock pg.state
        (Triple.ofFn (euclidTrig P pg)) (Triple.ofFn (euclidRst pg)) := by
  simp only [evaluateEuclidean, euclideanWord_bit]
  rfl

/-- The low bits of the Euclidean layout, for triggers and resets given by part. -/
theorem lowBits_euclideanLayout (outputClock : Bool) (st : Byte) (trig rst : Fin 3 → Bool) :
    let out := euclideanLayout P outputClock st (Triple.ofFn trig) (Triple.ofFn rst)
    if outputClock then lowBits out trig false (bit4 P (st.getLsbD 6)) (rst 0 && rst 1 && rst 2)
    else lowBits out trig (rst 0) (rst 1) (rst 2) := by
  have htrig : (Triple.ofFn trig).get = trig := funext (get_ofFn trig)
  cases outputClock with
  | true =>
    rw [← clockModeBit4_eq, ← htrig]
    exact lowBits_writeLowBits st _ _ _ _
  | false =>
    rw [← htrig]
    exact lowBits_writeLowBits st _ _ _ _

/-- Settles O39: the body runs on the refreshed registers, whose settings and Euclidean steps are the state's own and
whose clock bit is the inverted one. -/
theorem euclideanTickWritesTriggersAndResets : Obligations.EuclideanTickWritesTriggersAndResets := by
  intro n s hruns
  have hbody : evaluateBody Config.params (galoisStep s.rnd) (refreshPg (galoisStep s.rnd) s.pg) =
      evaluateEuclidean Config.params (refreshPg (galoisStep s.rnd) s.pg) := evaluateBody_of_euclidRuns _ _ hruns
  refine ⟨pgTick Config.params n s, rfl, ?perturbations, ?layout⟩
  case perturbations =>
    rw [pgTick_partPerturbation, hbody]
    rfl
  case layout =>
    rw [pgTick_state, hbody, evaluateEuclidean_state, ← refreshTopBits_clock (galoisStep s.rnd) s.pg.state]
    exact lowBits_euclideanLayout _ _ _ _ _

end Sys2Proof.EuclideanBody
end

section
/-! Runs of PG_TICK commands (spec/42_pattern.md R195), and what replacing registers that the count of the pulses does
not read leaves of it. -/

namespace Sys2Proof.TickRuns

open Sys2Proof.Machine Sys2Proof.Rules Sys2Proof.Laws Sys2Proof.RepeatedCommand Sys2Proof.CommandRuns
  Sys2Proof.TickEvaluation

theorem pgTick_performs (n : Byte) : Performs (.pgTick n) (pgTick Config.params n) where
  exec_eq _ := rfl
  fault_eq _ := rfl
  setHost_eq _ _ := rfl

theorem pgReset_performs : Performs .pgReset fun s => setPg (resetPg s.pg) s where
  exec_eq _ := rfl
  fault_eq _ := rfl
  setHost_eq _ _ := rfl

/-- The state after one PG_TICK for each pulse count of the list. -/
def ticks (ns : List Byte) (s : State) : State := ns.foldl (fun s n => pgTick Config.params n s) s

theorem ticks_cons (n : Byte) (ns : List Byte) (s : State) :
    ticks (n :: ns) s = ticks ns (pgTick Config.params n s) := rfl

theorem ticks_runs (ns : List Byte) : Runs (ns.map .pgTick) (ticks ns) := by
  induction ns with
  | nil => exact runs_nil
  | cons n ns ih => exact (runs_single (pgTick_performs n)).append ih

theorem after_pgTicks_pg (ns : List Byte) {s : State} (hs : s.fault = false) :
    (after (ns.map .pgTick) s).pg = (ticks ns s).pg := by
  rw [(ticks_runs ns).after_eq hs, setHost_pg]

/-! ### The position (R195) -/

variable (n : Byte) (s : State)

theorem pgTick_pulse : (pgTick Config.params n s).pg.pulse.toNat = (s.pg.pulse.toNat + n.toNat) % 3 := by
  rw [pgTick_frame, BitVec.toNat_ofNat]
  omega

theorem pgTick_step :
    (pgTick Config.params n s).pg.step.toNat = (s.pg.step.toNat + (s.pg.pulse.toNat + n.toNat) / 3) % 32 := by
  rw [pgTick_frame, BitVec.toNat_ofNat]

theorem pgTick_options : (pgTick Config.params n s).pg.options = s.pg.options := by
  rw [pgTick_frame]

/-- From a pulse below 3, ticks move the position on as one count of all their pulses. -/
theorem ticks_position (ns : List Byte) {s : State} (hpulse : s.pg.pulse.toNat < 3) :
    let total := s.pg.pulse.toNat + (ns.map BitVec.toNat).sum
    (ticks ns s).pg.pulse.toNat = total % 3 ∧ (ticks ns s).pg.step.toNat = (s.pg.step.toNat + total / 3) % 32 := by
  induction ns generalizing s with
  | nil =>
    have hstep := s.pg.step.isLt
    simp only [List.map_nil, List.sum_nil, ticks, List.foldl_nil]
    omega
  | cons n ns ih =>
    obtain ⟨hp, hs⟩ := ih (s := pgTick Config.params n s) (by rw [pgTick_pulse]; omega)
    rw [ticks_cons, hp, hs, pgTick_pulse, pgTick_step, List.map_cons, List.sum_cons]
    omega

/-- Settles O40: PG_RESET starts the count at 0. -/
theorem pulseAndStepFollowTheTotal : Obligations.PulseAndStepFollowTheTotal := by
  intro ns s hs t total
  have hrun : t = setHost s.host (ticks ns (setPg (resetPg s.pg) s)) :=
    ((runs_single pgReset_performs).append (ticks_runs ns)).after_eq hs
  have hpulse : (setPg (resetPg s.pg) s).pg.pulse.toNat = 0 := rfl
  have hstep : (setPg (resetPg s.pg) s).pg.step.toNat = 0 := rfl
  have hcount := ticks_position ns (s := setPg (resetPg s.pg) s) (by omega)
  simp only [hpulse, hstep, Nat.zero_add] at hcount
  rw [hrun]
  exact hcount

/-! ### Counting the pulses -/

/-- A replacement that neither a step of the pattern nor a write of the pulse sees commutes with the count. -/
theorem advancePulses_comm (f : Pg → Pg) (hstep : ∀ pg, advanceStep (f pg) = f (advanceStep pg))
    (hpulse : ∀ pg p, { f pg with pulse := p } = f { pg with pulse := p }) (total : Nat) (pg : Pg) :
    advancePulses total (f pg) = f (advancePulses total pg) := by
  have hsteps : Function.Commute advanceStep f := hstep
  rw [advancePulses_eq, advancePulses_eq, (hsteps.iterate_left (total / 3)).eq pg, hpulse]

end Sys2Proof.TickRuns
end

section
/-! The density law (spec/42_pattern.md R203): in Drums mode a part whose density is raised triggers wherever it did.
The two runs differ in the density and in the state alone, because a tick reads neither but for the threshold of the
triggers and for the state's bits that it holds. -/

namespace Sys2Proof.DensityLaw

open Sys2Proof.Machine Sys2Proof.Rules Sys2Proof.Laws Sys2Proof.PatternTick Sys2Proof.RepeatedCommand
  Sys2Proof.TickRuns

/-- The PG registers with part `i`'s density and the state replaced. -/
def withDensity (i : Fin 3) (d st : Byte) (pg : Pg) : Pg := { pg with density := pg.density.set i d, state := st }

variable {i : Fin 3} {d : Byte} (P : Params) (rnd : Half) (st : Byte) (pg : Pg)

/-! ### The Drums body -/

theorem drawPerturbations_withDensity :
    drawPerturbations rnd (withDensity i d st pg) = withDensity i d st (drawPerturbations rnd pg) := by
  unfold drawPerturbations
  rw [apply_ite (withDensity i d st)]
  rfl

/-- The body's own writes are the same but for the state. -/
theorem evaluateDrums_withDensity :
    evaluateDrums P rnd (withDensity i d st pg) =
      withDensity i d (evaluateDrums P rnd (withDensity i d st pg)).state (evaluateDrums P rnd pg) := by
  rw [evaluateDrums, drawPerturbations_withDensity]
  rfl

/-- A higher density is a lower threshold against the same level (R201). -/
theorem drumTrigger_withDensity (hd : cell pg.density i ≤ d.toNat) (htrig : drumTrigger P pg i = true) :
    drumTrigger P (withDensity i d st pg) i = true := by
  have hlevel : drumLevel P (withDensity i d st pg) i = drumLevel P pg i := rfl
  have hdensity : (withDensity i d st pg).density.get i = d := get_set_same _ _ _
  rw [drumTrigger, decide_eq_true_iff, drumThreshold] at htrig ⊢
  rw [hlevel, hdensity]
  rw [cell] at hd
  omega

theorem drumsLayout_trigger (outputClock : Bool) (step : BitVec 5) (trig acc : Triple Bool) :
    (drumsLayout P outputClock step st trig acc).getLsbD i.val = trig.get i := by
  unfold drumsLayout
  split
  · exact (writeLowBits_bits ..).left i
  · exact (writeLowBits_bits ..).left i

theorem evaluateDrums_trigger :
    (evaluateDrums P rnd pg).state.getLsbD i.val = drumTrigger P (drawPerturbations rnd pg) i := by
  rw [evaluateDrums, writeDrums, drumsLayout_trigger, get_ofFn]

/-! ### The tick -/

/-- `raised` is `pg` with part `i`'s density set to `d`, at least the old one, in Drums mode, and it shows part `i`'s
trigger if `pg` does. -/
structure Raises (i : Fin 3) (d : Byte) (pg raised : Pg) : Prop where
  drums : pg.options.outputMode = .drums
  density_le : cell pg.density i ≤ d.toNat
  eq_withDensity : ∃ st, raised = withDensity i d st pg
  trigger : pg.state.getLsbD i.val = true → raised.state.getLsbD i.val = true

variable {rnd pg} {raised : Pg}

theorem Raises.refreshPg (h : Raises i d pg raised) : Raises i d (refreshPg rnd pg) (refreshPg rnd raised) where
  drums := h.drums
  density_le := h.density_le
  eq_withDensity := by
    obtain ⟨st, rfl⟩ := h.eq_withDensity
    exact ⟨refreshTopBits rnd st, rfl⟩
  trigger := by
    have hlow (pg : Pg) : (Machine.refreshPg rnd pg).state.getLsbD i.val = pg.state.getLsbD i.val :=
      refreshTopBits_low _ _ (by omega)
    rw [hlow, hlow]
    exact h.trigger

theorem Raises.evaluateDrums (h : Raises i d pg raised) :
    Raises i d (evaluateDrums P rnd pg) (evaluateDrums P rnd raised) where
  drums := by rw [evaluateDrums_frame]; exact h.drums
  density_le := by rw [evaluateDrums_frame]; exact h.density_le
  eq_withDensity := by
    obtain ⟨st, rfl⟩ := h.eq_withDensity
    exact ⟨_, evaluateDrums_withDensity P rnd st pg⟩
  trigger := by
    obtain ⟨st, rfl⟩ := h.eq_withDensity
    rw [evaluateDrums_trigger, evaluateDrums_trigger, drawPerturbations_withDensity]
    exact drumTrigger_withDensity P st _ (by rw [drawPerturbations_frame]; exact h.density_le)

/-- In Drums mode the pulse alone decides whether the body runs (R196). -/
theorem evaluateBody_of_drums (hmode : pg.options.outputMode = .drums) :
    evaluateBody P rnd pg = if pg.pulse ≠ 0 then pg else Machine.evaluateDrums P rnd pg := by
  rw [evaluateBody, hmode]

theorem Raises.pulse_eq (h : Raises i d pg raised) : raised.pulse = pg.pulse := by
  obtain ⟨st, rfl⟩ := h.eq_withDensity
  rfl

theorem Raises.options_eq (h : Raises i d pg raised) : raised.options = pg.options := by
  obtain ⟨st, rfl⟩ := h.eq_withDensity
  rfl

theorem Raises.evaluateBody (h : Raises i d pg raised) :
    Raises i d (evaluateBody P rnd pg) (evaluateBody P rnd raised) := by
  rw [evaluateBody_of_drums P h.drums, evaluateBody_of_drums P (by rw [h.options_eq, h.drums]), h.pulse_eq]
  split
  · exact h
  · exact h.evaluateDrums P

theorem Raises.advancePulses (h : Raises i d pg raised) (total : Nat) :
    Raises i d (advancePulses total pg) (advancePulses total raised) where
  drums := by rw [advancePulses_frame]; exact h.drums
  density_le := by rw [advancePulses_frame]; exact h.density_le
  eq_withDensity := by
    obtain ⟨st, rfl⟩ := h.eq_withDensity
    exact ⟨st, advancePulses_comm (withDensity i d st) (fun _ => rfl) (fun _ _ => rfl) total pg⟩
  trigger := by rw [advancePulses_frame pg, advancePulses_frame raised]; exact h.trigger

/-- Two states with the same LFSR state, the second with the density raised. -/
def StateRaises (i : Fin 3) (d : Byte) (s u : State) : Prop := u.rnd = s.rnd ∧ Raises i d s.pg u.pg

theorem StateRaises.pgTick {s u : State} (h : StateRaises i d s u) (n : Byte) :
    StateRaises i d (pgTick P n s) (pgTick P n u) := by
  obtain ⟨hrnd, hpg⟩ := h
  refine ⟨congrArg galoisStep hrnd, ?_⟩
  simp only [Machine.pgTick, setPg_pg, hrnd, hpg.pulse_eq]
  exact (hpg.refreshPg.evaluateBody P).advancePulses _

theorem StateRaises.iterate {s u : State} (h : StateRaises i d s u) (n : Byte) (k : Nat) :
    StateRaises i d ((Machine.pgTick P n)^[k] s) ((Machine.pgTick P n)^[k] u) := by
  induction k with
  | zero => exact h
  | succ k ih =>
    rw [Function.iterate_succ_apply', Function.iterate_succ_apply']
    exact ih.pgTick P n

/-- Settles O41: every trigger of the first run is one of the second, so the second counts at least as many. -/
theorem densityNeverLowersTriggers : Obligations.DensityNeverLowersTriggers := by
  intro m i d s hs hmode hd raised
  have hstart : StateRaises i d s raised := ⟨rfl, hmode, hd, ⟨s.pg.state, rfl⟩, id⟩
  have htrigger (k : Nat) : (after (List.replicate (k + 1) (.pgTick 3)) s).pg.state.getLsbD i.val = true →
      (after (List.replicate (k + 1) (.pgTick 3)) raised).pg.state.getLsbD i.val = true := by
    obtain ⟨-, hraises⟩ := hstart.iterate Config.params 3 (k + 1)
    rw [after_replicate (pgTick_performs 3) _ hs, after_replicate (pgTick_performs 3) _ (s := raised) hs]
    exact hraises.trigger
  exact ⟨fun k _ => htrigger k, (List.monotone_filter_right _ htrigger).length_le⟩

end Sys2Proof.DensityLaw
end

section
/-! The LFSR in Euclidean mode (spec/42_pattern.md R205): it reaches the random bit of the state, and no tick reads that
bit. -/

namespace Sys2Proof.EuclideanRuns

open Sys2Proof.Machine Sys2Proof.Rules Sys2Proof.Laws Sys2Proof.PatternTick Sys2Proof.DrumsBody
  Sys2Proof.TickRuns

/-- Two pattern states that agree below the random bit. -/
def SameBelowRandom (st st' : Byte) : Prop := ∀ k < 7, st'.getLsbD k = st.getLsbD k

/-- The PG registers with the state replaced. -/
def withState (st : Byte) (pg : Pg) : Pg := { pg with state := st }

/-- Two PG register files that differ in the random bit at most. -/
def SameButRandom (pg pg' : Pg) : Prop := ∃ st, SameBelowRandom pg.state st ∧ pg' = withState st pg

variable (P : Params) (rnd rnd' : Half) {st st' : Byte} {pg pg' : Pg}

/-! ### The state's bits -/

theorem refreshTopBits_below (h : SameBelowRandom st st') :
    SameBelowRandom (refreshTopBits rnd st) (refreshTopBits rnd' st') := by
  intro k hk
  rcases Nat.lt_or_ge k 6 with hlow | hge
  · rw [refreshTopBits_low _ _ hlow, refreshTopBits_low _ _ hlow, h k hk]
  · obtain rfl : k = 6 := by omega
    rw [refreshTopBits_clock, refreshTopBits_clock, h 6 hk]

theorem writeLowBits_below (h : SameBelowRandom st st') (b5 b4 b3 : Bool) (trig : Triple Bool) :
    SameBelowRandom (writeLowBits st b5 b4 b3 trig) (writeLowBits st' b5 b4 b3 trig) := by
  obtain ⟨htrig, h3, h4, h5, h6, -⟩ := writeLowBits_bits st b5 b4 b3 trig
  obtain ⟨htrig', h3', h4', h5', h6', -⟩ := writeLowBits_bits st' b5 b4 b3 trig
  intro k hk
  rcases Nat.lt_or_ge k 3 with htriggers | hge
  · exact (htrig' ⟨k, htriggers⟩).trans (htrig ⟨k, htriggers⟩).symm
  · obtain rfl | rfl | rfl | rfl : k = 3 ∨ k = 4 ∨ k = 5 ∨ k = 6 := by omega
    · rw [h3, h3']
    · rw [h4, h4']
    · rw [h5, h5']
    · rw [h6, h6', h 6 hk]

theorem euclideanLayout_below (h : SameBelowRandom st st') (outputClock : Bool) (trig rst : Triple Bool) :
    SameBelowRandom (euclideanLayout P outputClock st trig rst) (euclideanLayout P outputClock st' trig rst) := by
  have hbit4 : clockModeBit4 P st' = clockModeBit4 P st := by
    rw [clockModeBit4_eq, clockModeBit4_eq, h 6 (by decide)]
  unfold euclideanLayout
  rw [hbit4]
  split
  · exact writeLowBits_below h _ _ _ _
  · exact writeLowBits_below h _ _ _ _

/-! ### The tick -/

theorem SameButRandom.refreshPg (h : SameButRandom pg pg') : SameButRandom (refreshPg rnd pg) (refreshPg rnd' pg') := by
  obtain ⟨st, hbelow, rfl⟩ := h
  exact ⟨refreshTopBits rnd' st, refreshTopBits_below rnd rnd' hbelow, rfl⟩

theorem SameButRandom.evaluateEuclidean (h : SameButRandom pg pg') :
    SameButRandom (evaluateEuclidean P pg) (evaluateEuclidean P pg') := by
  obtain ⟨st, hbelow, rfl⟩ := h
  exact ⟨_, euclideanLayout_below P hbelow _ _ _, rfl⟩

/-- In Euclidean mode the pulse and the step alone decide whether the body runs (R196). -/
theorem evaluateBody_of_euclidean (hmode : pg.options.outputMode = .euclidean) :
    evaluateBody P rnd pg =
      if pg.pulse ≠ 0 then pg else if pg.step.getLsbD 0 then pg else Machine.evaluateEuclidean P pg := by
  rw [evaluateBody, hmode]

theorem SameButRandom.evaluateBody (h : SameButRandom pg pg') (hmode : pg.options.outputMode = .euclidean) :
    SameButRandom (evaluateBody P rnd pg) (evaluateBody P rnd' pg') := by
  have ⟨_, _, hpg⟩ := h
  have hoptions : pg'.options = pg.options := by rw [hpg]; rfl
  have hpulse : pg'.pulse = pg.pulse := by rw [hpg]; rfl
  have hstep : pg'.step = pg.step := by rw [hpg]; rfl
  rw [evaluateBody_of_euclidean P rnd hmode, evaluateBody_of_euclidean P rnd' (by rw [hoptions, hmode]), hpulse, hstep]
  split
  · exact h
  · split
    · exact h
    · exact h.evaluateEuclidean P

theorem SameButRandom.advancePulses (h : SameButRandom pg pg') (total : Nat) :
    SameButRandom (advancePulses total pg) (advancePulses total pg') := by
  obtain ⟨st, hbelow, rfl⟩ := h
  refine ⟨st, ?_, advancePulses_comm (withState st) (fun _ => rfl) (fun _ _ => rfl) total pg⟩
  rw [advancePulses_frame]
  exact hbelow

theorem SameButRandom.pgTick {s u : State} (h : SameButRandom s.pg u.pg) (hmode : s.pg.options.outputMode = .euclidean)
    (n : Byte) : SameButRandom (pgTick P n s).pg (pgTick P n u).pg := by
  have ⟨_, _, hpg⟩ := h
  have hpulse : u.pg.pulse = s.pg.pulse := by rw [hpg]; rfl
  simp only [Machine.pgTick, setPg_pg, hpulse]
  exact ((h.refreshPg _ _).evaluateBody P _ _ hmode).advancePulses _

theorem SameButRandom.ticks (ns : List Byte) {s u : State} (h : SameButRandom s.pg u.pg)
    (hmode : s.pg.options.outputMode = .euclidean) : SameButRandom (ticks ns s).pg (ticks ns u).pg := by
  induction ns generalizing s u with
  | nil => exact h
  | cons n ns ih => exact ih (h.pgTick Config.params hmode n) (by rw [pgTick_options, hmode])

/-- Settles O42: the two runs start with the same PG registers. -/
theorem euclideanModeIgnoresTheLfsr : Obligations.EuclideanModeIgnoresTheLfsr := by
  intro ns r s hs hmode t u
  have ht : t.pg = (ticks ns s).pg := after_pgTicks_pg ns hs
  have hu : u.pg = (ticks ns { s with rnd := r }).pg := after_pgTicks_pg ns (s := { s with rnd := r }) hs
  have hsame : SameButRandom s.pg { s with rnd := r }.pg := ⟨s.pg.state, fun _ _ => rfl, rfl⟩
  obtain ⟨st, hbelow, hpg⟩ := hsame.ticks ns hmode
  rw [ht, hu, hpg]
  exact ⟨rfl, hbelow⟩

end Sys2Proof.EuclideanRuns
end

section
/-! The OSC commands that write registers without a render (spec/43_oscillator.md R251 to R254, R258). -/

namespace Sys2Proof.OscillatorSettings

open Sys2Proof.Machine Sys2Proof.Rules Sys2Proof.CommandPort

/-! ### OSC_INIT and OSC_SET_PW -/

theorem shapeCode_le (shape : Shape) : (shapeCode shape).toNat ≤ 5 := by
  cases shape <;> decide

/-- Settles O48: the parameters' constraints are conditions that every parameter set carries. -/
theorem oscInitRestoresTheOscillator : Obligations.OscInitRestoresTheOscillator := by
  refine ⟨encodedAs_of_row (f := .N) rfl, ⟨?rng, ?shape, ?min, ?max⟩, fun _ => rfl⟩
  case rng => exact Config.params.oscRngReset_ne_zero
  case shape => exact shapeCode_le _
  case min => exact Config.params.oscPitchMin_le_reset
  case max => exact Config.params.oscPitchReset_le_max

/-- Settles O52: OSC_SET_PW is one write of the pulse width. -/
theorem oscSetPwStoresTheWidth : Obligations.OscSetPwStoresTheWidth :=
  ⟨encodedAs_of_row (f := .B) rfl, fun _ _ => rfl⟩

/-! ### OSC_SET_PITCH and OSC_SET_GATE: what makes the increment stale -/

theorem or_decide_eq_ite (b : Bool) (p : Prop) [Decidable p] : (b || decide p) = if p then true else b := by
  split
  · next hp => rw [decide_eq_true hp, Bool.or_true]
  · next hp => rw [decide_eq_false hp, Bool.or_false]

/-- R251 with the floor of the pitch in integers. -/
theorem withPitch_eq (p : Half) (o : Osc) :
    withPitch p o =
      { o with
        pitch := p
        note := BitVec.ofInt 16 (p.toInt / 128)
        dirty := if p ≠ o.pitch then true else o.dirty } := by
  rw [withPitch, or_decide_eq_ite]
  rfl

/-- Settles O49: a pitch in range is written with its note, and is a change if it is not the pitch held. -/
theorem oscSetPitchQuantizesTheNote : Obligations.OscSetPitchQuantizesTheNote := by
  refine ⟨encodedAs_of_row (f := .H) rfl, fun p s => congrArg Host.Outcome.next ?_⟩
  rw [oscSetPitch, withPitch_eq]
  rfl

/-- R253 for a gate given as a number. -/
theorem withGate_eq (g : Nat) (o : Osc) :
    withGate (decide (g = 1)) o =
      { o with
        gate := decide (g = 1)
        dirty := if o.gate = false ∧ g = 1 then true else o.dirty } := by
  have hopening : (!o.gate && decide (g = 1)) = decide (o.gate = false ∧ g = 1) := by
    rw [Bool.decide_and, Bool.decide_eq_false]
  rw [withGate, hopening, or_decide_eq_ite]

theorem oscSetGate_eq (g : Byte) (s : State) :
    oscSetGate g s =
      if 1 < g.toNat then raise .badGate (encode (.oscSetGate g)) s
      else setOsc (withGate (decide (g.toNat = 1)) s.osc) s := by
  unfold oscSetGate
  split
  · next hg => rw [hg]; rfl
  · next hg => rw [hg]; rfl
  · next hne0 hne1 =>
    simp only [imp_false] at hne0 hne1
    rw [if_pos (show 1 < g.toNat by omega)]

/-- Settles O51: the operand is a gate, or is above 1. -/
theorem oscSetGateMarksTheOpening : Obligations.OscSetGateMarksTheOpening := by
  refine ⟨encodedAs_of_row (f := .B) rfl, fun g s => congrArg Host.Outcome.next ?_⟩
  rw [oscSetGate_eq, withGate_eq]
  rfl

/-! ### OSC_SET_SHAPE -/

theorem shapeOfOperand_eq (shape : Byte) :
    shapeOfOperand shape =
      if 5 < shape.toNat then none
      else some ([.sine, .triangle, .nesTriangle, .nesNoiseShort, .nesNoiseLong, .noise].getD shape.toNat .sine) := by
  unfold shapeOfOperand
  split
  -- The last arm is the one for a code above 5.
  case h_7 =>
    simp only [imp_false] at *
    rw [if_pos (show 5 < shape.toNat by omega)]
  all_goals
    next hcode =>
      rw [hcode]
      rfl

/-- Settles O50: the operand is one of the six codes, or is above 5. -/
theorem oscSetShapeSelectsByCode : Obligations.OscSetShapeSelectsByCode := by
  refine ⟨encodedAs_of_row (f := .B) rfl, fun shape s => congrArg Host.Outcome.next ?_⟩
  rw [oscSetShape, shapeOfOperand_eq]
  by_cases habove : 5 < shape.toNat
  · rw [if_pos habove, if_pos habove]
    rfl
  · rw [if_neg habove, if_neg habove]
    rfl

end Sys2Proof.OscillatorSettings
end

section
/-! OSC_RENDER on a full FIFO and with the gate closed (spec/43_oscillator.md R255, R256). -/

namespace Sys2Proof.SilentRender

open Sys2Proof.Machine Sys2Proof.Rules Sys2Proof.Laws Sys2Proof.CommandPort

variable {P : Params} {s : State}

theorem oscRender_full (hfull : fifoFree P s < P.oscBlock) : oscRender P s = raise .bufferFull (encode .oscRender) s :=
  if_pos hfull

/-- After the first sample the held one is 2048 already. -/
theorem iterate_silenceSample (k : Nat) (o : Osc) : silenceSample^[k + 1] o = { o with sample := 2048 } := by
  rw [Function.iterate_succ_apply]
  exact Function.iterate_fixed rfl k

theorem oscRender_closed (hroom : HasRoom P s) (hgate : s.osc.gate = false) :
    oscRender P s =
      { s with
        fifo := s.fifo ++ List.replicate P.oscBlock 2048
        osc := { s.osc with sample := 2048 } } := by
  have hfree : ¬ fifoFree P s < P.oscBlock := not_lt.mpr hroom
  have hclosed : ¬ s.osc.gate = true := Bool.eq_false_iff.mp hgate
  obtain ⟨n, hblock⟩ := Nat.exists_eq_succ_of_ne_zero (Nat.pos_iff_ne_zero.mp P.oscBlock_pos)
  rw [oscRender, if_neg hfree, if_neg hclosed, renderSamples_eq, hblock]
  simp only [iterate_silenceSample, List.map_const', List.length_range]

/-- Settles O53: the buffer is checked first, and a closed gate renders silence. -/
theorem renderFaultsWhenFullAndIsSilentWhenClosed : Obligations.RenderFaultsWhenFullAndIsSilentWhenClosed :=
  ⟨encodedAs_of_row (f := .N) rfl, fun _ =>
    ⟨fun hfull => congrArg Host.Outcome.next (oscRender_full hfull),
      fun hroom hgate => congrArg Host.Outcome.next (oscRender_closed hroom hgate)⟩⟩

end Sys2Proof.SilentRender
end

section
/-! The octave law (spec/43_oscillator.md R259): two pitches an octave apart fold to the same place of the reference
octave, the upper one with one shift fewer. -/

namespace Sys2Proof.OctaveLaw

open Sys2Proof.Machine Sys2Proof.Rules Sys2Proof.PhaseIncrement

variable {P : Params} {q : Int}

/-- An octave down is one fold more. -/
theorem octaves_octave_down {p : Int} (hoctave : q = p + 1536) (htable : q ≤ P.oscRefPitch.toInt + 1535) :
    octaves P p = octaves P q + 1 := by
  unfold octaves
  omega

/-- A pitch is not folded exactly when it is at or above the reference. -/
theorem octaves_eq_zero_iff (htable : q ≤ P.oscRefPitch.toInt + 1535) :
    octaves P q = 0 ↔ P.oscRefPitch.toInt ≤ q := by
  unfold octaves
  omega

/-- One shift more halves the value, rounded down. -/
theorem shift_less_doubles (v n : Nat) :
    v / 2 ^ n = 2 * (v / 2 ^ (n + 1)) ∨ v / 2 ^ n = 2 * (v / 2 ^ (n + 1)) + 1 := by
  rw [pow_succ, ← Nat.div_div_eq_div_mul]
  omega

/-- Settles O59: the lower pitch is shifted once more, but for a noise shape whose skipped fold is the only one. -/
theorem octaveUpDoublesTheIncrement : Obligations.OctaveUpDoublesTheIncrement := by
  intro P p q noise hoctave htable lower upper
  have hfolds := octaves_octave_down hoctave htable
  have hreached := octaves_eq_zero_iff htable
  have hsamePlace : p.toInt + 1536 * octaves P p.toInt = q.toInt + 1536 * octaves P q.toInt := by
    rw [hfolds, hoctave]
    push_cast
    ring
  have hlower := computePhaseIncrement_toNat noise (pitch := p) (P := P) (by omega)
  have hupper := computePhaseIncrement_toNat noise htable
  rw [hsamePlace, hfolds] at hlower
  simp only [lower, upper, hlower, hupper]
  cases noise with
  | false =>
    rw [if_neg (by simp)]
    exact shift_less_doubles _ _
  | true =>
    by_cases hreference : P.oscRefPitch.toInt ≤ q.toInt
    · rw [if_pos ⟨rfl, hreference⟩, hreached.mpr hreference]
      rfl
    · obtain ⟨n, hn⟩ := Nat.exists_eq_succ_of_ne_zero (mt hreached.mp hreference)
      rw [if_neg (fun h => hreference h.2), hn]
      exact shift_less_doubles _ n

end Sys2Proof.OctaveLaw
end

section
/-! RenderNoiseNES (spec/43_oscillator.md R265) in the integers of the statements. -/

namespace Sys2Proof.NesNoiseRender

open Sys2Proof.Machine Sys2Proof.Rules Sys2Proof.Laws Sys2Proof.ClockedRender

/-! ### The step and the level -/

theorem nesNoiseSample_eq_clockedSample (tap : Nat) : nesNoiseSample tap = clockedSample (nesStep tap) nesLevel := rfl

theorem toNat_ofBool_xor (a b : Bool) : (BitVec.ofBool (a ^^ b)).toNat = a.toNat ^^^ b.toNat := by
  cases a <;> cases b <;> rfl

/-- The feedback bit goes in at bit 14 as bit 0 goes out. -/
theorem nesStep_toNat (tap : Nat) (r : Half) : (nesStep tap r).toNat = nesStepNat tap r.toNat := by
  have hbit := (BitVec.ofBool (r.getLsbD 0 ^^ r.getLsbD tap)).isLt
  rw [nesStep, nesStepNat, BitVec.toNat_or, BitVec.toNat_ushiftRight, BitVec.toNat_shiftLeft, BitVec.toNat_setWidth,
    Nat.shiftRight_eq_div_pow, pow_one, Nat.shiftLeft_eq, Nat.mod_eq_of_lt (by omega : _ < 2 ^ 16),
    Nat.mod_eq_of_lt (by omega), toNat_ofBool_xor, BitVec.getLsbD, BitVec.getLsbD, Nat.toNat_testBit,
    Nat.toNat_testBit]
  rfl

/-- The step keeps to 15 bits: bit 0 has gone out, and bit 14 is the highest to come in. -/
theorem nesStepNat_lt (tap : Nat) (r : Half) : nesStepNat tap r.toNat < 2 ^ 15 := by
  have hbit : bitOf r.toNat 0 ^^^ bitOf r.toNat tap < 2 ^ 1 :=
    Nat.xor_lt_two_pow (Nat.mod_lt _ two_pos) (Nat.mod_lt _ two_pos)
  exact Nat.or_lt_two_pow (by omega) (by omega)

theorem nesStepNat_pos {tap : Nat} {r : Half} (htap : 1 ≤ tap) (hr : r ≠ 0) : 0 < nesStepNat tap r.toNat := by
  rw [← nesStep_toNat]
  exact Nat.pos_of_ne_zero fun hzero => nesStep_ne_zero htap hr (BitVec.eq_of_toNat_eq hzero)

theorem nesLevel_eq (r : Half) : nesLevel r = nesLevelOf r.toNat := by
  have hodd : r.getLsbD 0 = true ↔ r.toNat % 2 = 1 := by
    rw [BitVec.getLsbD, Nat.testBit_zero, decide_eq_true_iff]
  exact if_congr hodd rfl rfl

theorem nesLevelOf_cases (r : Nat) : nesLevelOf r = 0x0300 ∨ nesLevelOf r = 0x0CFF := ite_eq_or_eq _ _ _

/-! ### The render -/

theorem shapeSample_nes {P : Params} {shape : Shape} {tap : Nat}
    (hshape : shape = .nesNoiseShort ∧ tap = 6 ∨ shape = .nesNoiseLong ∧ tap = 1) :
    shapeSample P shape = clockedSample (nesStep tap) nesLevel := by
  rcases hshape with ⟨rfl, rfl⟩ | ⟨rfl, rfl⟩
  · exact nesNoiseSample_eq_clockedSample 6
  · exact nesNoiseSample_eq_clockedSample 1

/-- Settles O56: NES noise is a clocked render of the NES step, and its level is one of two. -/
theorem renderNesNoiseHasTwoLevels : Obligations.RenderNesNoiseHasTwoLevels := by
  refine ⟨fun tap r htap hr => ⟨nesStepNat_pos (by omega) hr, nesStepNat_lt tap r⟩,
    fun tap s hroom hgate hpitch hshape => ?_⟩
  refine ⟨_, congrArg Host.Outcome.next
    (oscRender_clocked (nesStep_toNat tap) nesLevel_eq hroom hgate hpitch (shapeSample_nes hshape)), rfl, ?levels⟩
  case levels =>
    rw [rendered_drop_fifo]
    simp only [List.forall_mem_map]
    exact fun k _ => nesLevelOf_cases _

end Sys2Proof.NesNoiseRender
end

section
/-! The interpolations of the wavetables (spec/43_oscillator.md R261, R262) in the integers of the statements. -/

namespace Sys2Proof.WaveInterpolation

open Sys2Proof.Machine Sys2Proof.Rules Sys2Proof.Laws

/-- A blend of two samples lies between them, so narrowing it to a u12 loses nothing. -/
theorem blend_toNat (a b : Sample) {w k : Nat} (hw : w < 2 ^ k) :
    ((BitVec.ofInt 12 (lerp a.toNat b.toNat w k)).toNat : Int) = lerp a.toNat b.toNat w k :=
  ofInt_sample a.isLt b.isLt (lerp_between _ _ hw)

theorem blend_between (a b : Sample) {w k : Nat} (hw : w < 2 ^ k) :
    min a.toNat b.toNat ≤ (BitVec.ofInt 12 (lerp a.toNat b.toNat w k)).toNat ∧
    (BitVec.ofInt 12 (lerp a.toNat b.toNat w k)).toNat ≤ max a.toNat b.toNat := by
  have hvalue := blend_toNat a b hw
  have hbetween := lerp_between a.toNat b.toNat hw
  omega

variable (bank : Fin 8 → Fin 257 → Sample)

/-! ### One wavetable (R261) -/

theorem fraction_lt (ph : Phase24) : ph.toNat / 256 % 256 < 2 ^ 8 := Nat.mod_lt _ (by decide)

/-- The two entries that a phase falls between, and the fraction that blends them. -/
theorem waveInterp_eq (z : Fin 8) (ph : Phase24) :
    waveInterp bank z ph =
      BitVec.ofInt 12 (lerp (bank z (Fin.ofNat 257 (ph.toNat / 65536))).toNat
        (bank z (Fin.ofNat 257 (ph.toNat / 65536 + 1))).toNat (ph.toNat / 256 % 256 : Nat) 8) := by
  have hph : ph.toNat / 65536 < 256 := by omega
  have hindex : (ph.extractLsb' 16 8).toNat = ph.toNat / 65536 := by
    rw [BitVec.extractLsb'_toNat, Nat.shiftRight_eq_div_pow]
    exact Nat.mod_eq_of_lt hph
  have hfraction : (ph.extractLsb' 8 8).toNat = ph.toNat / 256 % 256 := by
    rw [BitVec.extractLsb'_toNat, Nat.shiftRight_eq_div_pow]
  have hentry {j k : Nat} (hj : j < 257) (hjk : j = k) : (⟨j, hj⟩ : Fin 257) = Fin.ofNat 257 k :=
    Fin.ext (by rw [Fin.val_ofNat, ← hjk, Nat.mod_eq_of_lt hj])
  simp only [waveInterp, hentry _ hindex, hentry _ (congrArg (· + 1) hindex), hfraction]

theorem waveInterp_toNat (z : Fin 8) (ph : Phase24) :
    ((waveInterp bank z ph).toNat : Int) = waveAt bank z.val ph.toNat := by
  have hzone : Fin.ofNat 8 z.val = z := Fin.ofNat_val_eq_self z
  rw [waveInterp_eq, blend_toNat _ _ (fraction_lt ph), waveAt, hzone]
  rfl

/-! ### Two zones (R262) -/

theorem weight_lt (note : Half) : zoneNote note % 16 < 2 ^ 4 := Nat.mod_lt _ (by decide)

theorem zoneSample_eq (note : Half) (ph : Phase24) :
    zoneSample bank note ph =
      BitVec.ofInt 12 (lerp (waveInterp bank (Fin.ofNat 8 (zoneNote note / 16)) ph).toNat
        (waveInterp bank (Fin.ofNat 8 (min (zoneNote note / 16 + 1) 7)) ph).toNat (zoneNote note % 16 : Nat) 4) := by
  have hle : zoneNote note ≤ 127 := by unfold zoneNote; omega
  have hlow (h : zoneNote note / 16 < 8) :
      (⟨zoneNote note / 16, h⟩ : Fin 8) = Fin.ofNat 8 (zoneNote note / 16) := Fin.ext (Nat.mod_eq_of_lt h).symm
  have hhigh (h : min (zoneNote note / 16 + 1) 7 < 8) :
      (⟨min (zoneNote note / 16 + 1) 7, h⟩ : Fin 8) = Fin.ofNat 8 (min (zoneNote note / 16 + 1) 7) :=
    Fin.ext (Nat.mod_eq_of_lt h).symm
  simp only [zoneSample, hlow, hhigh]

theorem zoneSample_toNat (note : Half) (ph : Phase24) :
    ((zoneSample bank note ph).toNat : Int) = zoneAt bank note.toInt ph.toNat := by
  have hle : zoneNote note ≤ 127 := by unfold zoneNote; omega
  rw [zoneSample_eq, blend_toNat _ _ (weight_lt note), waveInterp_toNat, waveInterp_toNat, Fin.val_ofNat,
    Fin.val_ofNat, Nat.mod_eq_of_lt (by omega), Nat.mod_eq_of_lt (by omega)]
  rfl

/-- Settles O60: both interpolations are blends of two samples. -/
theorem interpolationsStayBetween : Obligations.InterpolationsStayBetween := by
  refine fun bank note ph => ⟨⟨zoneSample_toNat bank note ph, ?zone⟩, fun z => ⟨waveInterp_toNat bank z ph, ?wave⟩⟩
  case zone =>
    rw [zoneSample_eq]
    exact blend_between _ _ (weight_lt note)
  case wave =>
    rw [waveInterp_eq]
    exact blend_between _ _ (fraction_lt ph)

end Sys2Proof.WaveInterpolation
end

section
/-! The renders that read the wavetables (spec/43_oscillator.md R263, R264) in closed form: the phase sum, which every
sample advances, and with it the auxiliary phase and the sample. -/

namespace Sys2Proof.WavetableRender

open Sys2Proof.Machine Sys2Proof.Rules Sys2Proof.Laws Sys2Proof.ClockedRender Sys2Proof.WaveInterpolation

variable {P : Params}

/-! ### A render by its samples -/

/-- The oscillator after `k` samples of a render that starts from `o`, the samples and the auxiliary phases given. -/
def waveOsc (P : Params) (f : Nat → Sample) (aux : Nat → Half) (o : Osc) (k : Nat) : Osc :=
  { refreshed P o with
    phase := BitVec.ofNat 24 (phaseAfter P o k)
    sample := if k = 0 then o.sample else f k
    auxPhase := aux k }

variable {f : Nat → Sample} {aux : Nat → Half} {o : Osc}

theorem waveOsc_zero (haux : aux 0 = o.auxPhase) : waveOsc P f aux o 0 = refreshed P o := by
  simp [waveOsc, refreshed, phaseAfter, haux]

theorem waveOsc_succ (k : Nat) :
    waveOsc P f aux o (k + 1) =
      { waveOsc P f aux o k with
        phase := BitVec.ofNat 24 (phaseAfter P o (k + 1))
        sample := f (k + 1)
        auxPhase := aux (k + 1) } :=
  rfl

/-- Advancing the reduced phase is reducing the advanced sum (R260). -/
theorem advancePhase_waveOsc (k : Nat) :
    advancePhase (waveOsc P f aux o k) =
      { waveOsc P f aux o k with phase := BitVec.ofNat 24 (phaseAfter P o (k + 1)) } := by
  have hsucc : phaseAfter P o (k + 1) = phaseAfter P o k + (renderIncrement P o).toNat := by
    rw [phaseAfter, phaseAfter, Nat.succ_mul, Nat.add_assoc]
  have hphase : BitVec.ofNat 24 (phaseSum (waveOsc P f aux o k)) = BitVec.ofNat 24 (phaseAfter P o (k + 1)) := by
    apply BitVec.eq_of_toNat_eq
    rw [hsucc, BitVec.toNat_ofNat, BitVec.toNat_ofNat, ← Nat.mod_add_mod]
    rfl
  rw [advancePhase, hphase]

/-- A render whose shape takes each of the given oscillators to the next emits the given samples. -/
theorem oscRender_of_samples {s : State} (hroom : HasRoom P s) (hgate : s.osc.gate = true)
    (hpitch : PitchInTable P s.osc) (haux : aux 0 = s.osc.auxPhase)
    (hnext : ∀ k, shapeSample P s.osc.shape (waveOsc P f aux s.osc k) = waveOsc P f aux s.osc (k + 1)) :
    oscRender P s = rendered P f s.osc.rng (aux P.oscBlock) s := by
  have hiterate (k : Nat) : (shapeSample P s.osc.shape)^[k] (refreshed P s.osc) = waveOsc P f aux s.osc k := by
    induction k with
    | zero => exact (waveOsc_zero haux).symm
    | succ k ih => rw [Function.iterate_succ_apply', ih, hnext]
  have hsample (k : Nat) (hk : k ≠ 0) : (waveOsc P f aux s.osc k).sample = f k := if_neg hk
  have hlast := hsample P.oscBlock (Nat.pos_iff_ne_zero.mp P.oscBlock_pos)
  rw [oscRender_open hroom hgate hpitch, renderSamples_eq]
  simp only [setOsc_osc, setOsc_fifo, hiterate, hsample _ (Nat.succ_ne_zero _)]
  rw [rendered, ← hlast]
  rfl

/-! ### The triangles (R264) -/

/-- The cross-faded value at a phase that is given by its sum. -/
theorem zoneSample_phaseAfter (bank : Fin 8 → Fin 257 → Sample) (o : Osc) (k : Nat) :
    zoneSample bank o.note (BitVec.ofNat 24 (phaseAfter P o k)) = waveSample P bank o k := by
  rw [waveSample, ← BitVec.toNat_ofNat, ← zoneSample_toNat, BitVec.ofInt_natCast, BitVec.ofNat_toNat,
    BitVec.setWidth_eq]

theorem triangleSample_waveOsc (bank : Fin 8 → Fin 257 → Sample) (o : Osc) (k : Nat) :
    triangleSample bank (waveOsc P (waveSample P bank o) (fun _ => o.auxPhase) o k) =
      waveOsc P (waveSample P bank o) (fun _ => o.auxPhase) o (k + 1) := by
  rw [triangleSample, advancePhase_waveOsc, waveOsc_succ, ← zoneSample_phaseAfter bank o (k + 1)]
  rfl

theorem oscRender_triangle {s : State} {bank : Fin 8 → Fin 257 → Sample} (hroom : HasRoom P s)
    (hgate : s.osc.gate = true) (hpitch : PitchInTable P s.osc)
    (hshape : shapeSample P s.osc.shape = triangleSample bank) :
    oscRender P s = rendered P (waveSample P bank s.osc) s.osc.rng s.osc.auxPhase s := by
  refine oscRender_of_samples (aux := fun _ => s.osc.auxPhase) hroom hgate hpitch rfl fun k => ?_
  rw [hshape]
  exact triangleSample_waveOsc bank s.osc k

/-- Settles O54: the two triangle shapes are one render with two banks. -/
theorem renderTriangleReadsTheWavetables : Obligations.RenderTriangleReadsTheWavetables := by
  refine fun s hroom hgate hpitch => ⟨fun hshape => ?triangle, fun hshape => ?nesTriangle⟩
  case triangle => exact congrArg Host.Outcome.next (oscRender_triangle hroom hgate hpitch (by rw [hshape]; rfl))
  case nesTriangle => exact congrArg Host.Outcome.next (oscRender_triangle hroom hgate hpitch (by rw [hshape]; rfl))

/-! ### The sine (R263) -/

/-- The auxiliary phases of a sine render. -/
def sineAux (P : Params) (o : Osc) (k : Nat) : Half := BitVec.ofNat 16 (auxAfter P o k)

theorem auxAfter_succ (o : Osc) (k : Nat) :
    auxAfter P o (k + 1) = auxAfter P o k + (P.auxIncTable o.cvPw).toNat := by
  rw [auxAfter, auxAfter, Nat.succ_mul, Nat.add_assoc]

theorem auxSum_waveOsc (o : Osc) (k : Nat) :
    auxSum P (waveOsc P f (sineAux P o) o k) = auxAfter P o k % 2 ^ 16 + (P.auxIncTable o.cvPw).toNat := by
  rw [auxSum, waveOsc, sineAux, BitVec.toNat_ofNat]
  rfl

/-- The reduced auxiliary phase wraps exactly where its sum passes a multiple of `2^16`. -/
theorem auxWraps_iff (o : Osc) (k : Nat) :
    2 ^ 16 ≤ auxSum P (waveOsc P f (sineAux P o) o k) ↔ auxAfter P o k / 2 ^ 16 < auxAfter P o (k + 1) / 2 ^ 16 := by
  rw [auxSum_waveOsc, auxAfter_succ]
  omega

theorem sineAux_succ (o : Osc) (k : Nat) :
    BitVec.ofNat 16 (auxSum P (waveOsc P f (sineAux P o) o k)) = sineAux P o (k + 1) := by
  apply BitVec.eq_of_toNat_eq
  rw [auxSum_waveOsc, sineAux, auxAfter_succ, BitVec.toNat_ofNat, BitVec.toNat_ofNat, Nat.mod_add_mod]

/-- Before the first sample, too, the oscillator holds the sample that a sine render would hold. -/
theorem waveOsc_heldSample (o : Osc) (k : Nat) : (waveOsc P (heldSample P o) aux o k).sample = heldSample P o k := by
  cases k with
  | zero => rfl
  | succ k => rfl

/-- What a sine render holds after a sample, in the terms of the model's test. -/
theorem heldSample_succ (o : Osc) (k : Nat) :
    (if 2 ^ 16 ≤ auxSum P (waveOsc P (heldSample P o) (sineAux P o) o k) then
      zoneSample P.waveTri o.note (BitVec.ofNat 24 (phaseAfter P o (k + 1)))
    else (waveOsc P (heldSample P o) (sineAux P o) o k).sample) = heldSample P o (k + 1) := by
  rw [zoneSample_phaseAfter, waveOsc_heldSample]
  exact if_congr (auxWraps_iff o k) rfl rfl

theorem sineSample_waveOsc (o : Osc) (k : Nat) :
    sineSample P (waveOsc P (heldSample P o) (sineAux P o) o k) =
      waveOsc P (heldSample P o) (sineAux P o) o (k + 1) := by
  rw [sineSample, advancePhase_waveOsc, sineAux_succ, waveOsc_succ, ← heldSample_succ]
  rfl

/-- Settles O55: a sine render's samples, held and re-sampled, are those of the auxiliary sum. -/
theorem renderSineHoldsBetweenAuxWraps : Obligations.RenderSineHoldsBetweenAuxWraps := by
  intro s hroom hgate hpitch hshape
  have hstart : sineAux Config.params s.osc 0 = s.osc.auxPhase := by simp [sineAux, auxAfter]
  refine congrArg Host.Outcome.next (oscRender_of_samples hroom hgate hpitch hstart fun k => ?_)
  rw [hshape]
  exact sineSample_waveOsc s.osc k

end Sys2Proof.WavetableRender
end

section
/-! The command port of a latched CORE (spec/60_exceptions.md R295, R296): a presented word goes off the host's list and
does nothing else. -/

namespace Sys2Proof.LatchedPort

open Sys2Proof.Machine Sys2Proof.HostSide Sys2Proof.RepeatedCommand

variable {s : State}

theorem performWord_of_latched (hs : s.fault = true) (w : Word) : performWord w s = .next s := if_pos hs

theorem step_latched (hs : s.fault = true) (w : Word) (rest : List HostAction) :
    Sys2Proof.core.step (setHost (.command w :: rest) s) = .next (setHost rest s) :=
  (step_takes (.command w) rest s).trans (performWord_of_latched (s := setHost rest s) hs w)

theorem run_latched (hs : s.fault = true) (ws : List Word) (rest : List HostAction) :
    Host.Core.run Sys2Proof.core ws.length (setHost (ws.map .command ++ rest) s) = .next (setHost rest s) := by
  induction ws with
  | nil => rfl
  | cons w ws ih => exact (run_succ_of_next (step_latched hs w (ws.map .command ++ rest)) ws.length).trans ih

/-- Settles O6, by induction on the words: each step leaves the state but for the host's list. -/
theorem latchedCoreIgnoresEveryWord : Obligations.LatchedCoreIgnoresEveryWord :=
  fun ws rest _ hs => run_latched hs ws rest

end Sys2Proof.LatchedPort
end

section
/-! The contracts of the commands (spec/60_exceptions.md R293, R294): each command raises the first contract it breaks,
and completes with the latch untouched where it breaks none. -/

namespace Sys2Proof.CommandContracts

open Sys2Proof.Machine Sys2Proof.Rules Sys2Proof.Laws Sys2Proof.FaultLatch

/-- `t` is what the contract of the command `i` asks of its next state from `s`: the first broken contract raised with
the command's own word, or the latch of `s` where none is broken. -/
inductive FollowsContract (P : Params) (i : Instr) (s : State) : State → Prop
  | breaks {c : Cause} (hbroken : violation P s i = some c) : FollowsContract P i s (raise c (encode i) s)
  | completes {t : State} (hkept : violation P s i = none) (hlatch : SameLatch s t) : FollowsContract P i s t

variable {P : Params} {i : Instr} {s t : State}

/-- A command with one contract, checked before anything is written. -/
theorem followsContract_ite {p : Prop} [Decidable p] {c : Cause}
    (hcontract : violation P s i = if p then some c else none) (hlatch : SameLatch s t) :
    FollowsContract P i s (if p then raise c (encode i) s else t) := by
  split
  · next hp => exact .breaks (hcontract.trans (if_pos hp))
  · next hp => exact .completes (hcontract.trans (if_neg hp)) hlatch

/-! ### The register numbers (R34) -/

/-- The assigned register numbers: one of the RND unit, five of the CLK unit, and the PG and OSC units' 27 in a row. -/
def registerNumbers : List Nat := 0x10 :: (List.range' 0x20 5 ++ List.range' 0x30 27)

theorem registerTable_numbers (s : State) : (registerTable s).map Prod.fst = registerNumbers := rfl

theorem mem_registerNumbers {n : Nat} :
    n ∈ registerNumbers ↔ n = 0x10 ∨ (0x20 ≤ n ∧ n ≤ 0x24) ∨ (0x30 ≤ n ∧ n ≤ 0x4A) := by
  simp only [registerNumbers, List.mem_cons, List.mem_append, List.mem_range'_1]
  omega

theorem registerValue_eq_none_iff {reg : Byte} : registerValue reg s = none ↔ reg.toNat ∉ registerNumbers := by
  rw [ReadRegister.registerValue_eq_lookup, Option.map_eq_none_iff, List.lookup_eq_none_iff, ← registerTable_numbers s,
    List.mem_map]
  simp only [bne_iff_ne, ne_comm (a := reg.toNat), ne_eq, not_exists, not_and]

theorem violation_read (P : Params) (s : State) (reg : Byte) :
    violation P s (.read reg) = if reg.toNat ∈ registerNumbers then none else some .badRegister :=
  if_congr (by rw [mem_registerNumbers, ← BitVec.toNat_inj]; rfl) rfl rfl

/-! ### The commands with a contract (R293) -/

theorem readRegister_followsContract (reg : Byte) : FollowsContract P (.read reg) s (readRegister reg s) := by
  have hcontract := violation_read P s reg
  unfold readRegister
  split
  · next v hvalue =>
    have hassigned : reg.toNat ∈ registerNumbers := not_not.mp fun hnone =>
      Option.some_ne_none v (hvalue.symm.trans (registerValue_eq_none_iff.mpr hnone))
    exact .completes (hcontract.trans (if_pos hassigned)) (sameLatch_respond v s)
  · next hvalue => exact .breaks (hcontract.trans (if_neg (registerValue_eq_none_iff.mp hvalue)))

theorem rndSeed_followsContract (v : Half) : FollowsContract P (.rndSeed v) s (rndSeed v s) :=
  followsContract_ite rfl (sameLatch_setRnd v s)

/-- BAD_RESOLUTION is checked before BPM_RANGE (R294). -/
theorem clkUpdate_followsContract (res : Byte) (bpm : Half) :
    FollowsContract P (.clkUpdate res bpm) s (clkUpdate P res bpm s) := by
  by_cases hres : 2 < res.toNat
  · rw [clkUpdate, if_pos hres]
    exact .breaks (if_pos hres)
  · rw [clkUpdate, if_neg hres]
    exact followsContract_ite (if_neg hres) (sameLatch_setClk _ s)

theorem swingAmount_eq_neg_128_iff {amount : Byte} : swingAmount amount = -128 ↔ amount = 0x80 :=
  BitVec.toInt_inj (y := 0x80#8)

theorem clkWrap_followsContract (amount : Byte) : FollowsContract P (.clkWrap amount) s (clkWrap amount s) :=
  followsContract_ite (if_congr swingAmount_eq_neg_128_iff.symm rfl rfl) (sameLatch_setClk _ s)

theorem pgSet_followsContract (idx v : Byte) : FollowsContract P (.pgSet idx v) s (pgSet idx v s) := by
  rw [PatternCommands.pgSet_eq]
  exact followsContract_ite rfl (sameLatch_setPg _ s)

theorem oscSetPitch_followsContract (p : Half) : FollowsContract P (.oscSetPitch p) s (oscSetPitch P p s) :=
  followsContract_ite rfl (sameLatch_setOsc _ s)

theorem oscSetShape_followsContract (shape : Byte) :
    FollowsContract P (.oscSetShape shape) s (oscSetShape shape s) := by
  rw [oscSetShape, OscillatorSettings.shapeOfOperand_eq]
  by_cases habove : 5 < shape.toNat
  · rw [if_pos habove]
    exact .breaks (if_pos habove)
  · rw [if_neg habove]
    exact .completes (if_neg habove) (sameLatch_setOsc _ s)

theorem oscSetGate_followsContract (g : Byte) : FollowsContract P (.oscSetGate g) s (oscSetGate g s) := by
  rw [OscillatorSettings.oscSetGate_eq]
  exact followsContract_ite rfl (sameLatch_setOsc _ s)

/-- With room in the FIFO a render completes, whatever the gate (R255). -/
theorem oscRender_followsContract : FollowsContract P .oscRender s (oscRender P s) := by
  refine followsContract_ite rfl ?_
  split
  · obtain ⟨hfault, hcause, hcmd⟩ :=
      sameLatch_renderSamples (shapeSample P s.osc.shape) P.oscBlock (setOsc (recompute P s.osc) s)
    exact ⟨hfault, hcause, hcmd⟩
  · exact sameLatch_renderSamples silenceSample P.oscBlock s

/-! ### Every command -/

/-- A command that has no causes leaves the latch as it was (R293). -/
theorem sameLatch_of_no_causes (hnone : commandCauses i = []) (h : exec i s = .next t) : SameLatch s t := by
  rcases exec_latch h with ⟨c, hc, -⟩ | hsame
  · rw [hnone] at hc
    cases hc
  · exact hsame

theorem exec_followsContract (h : exec i s = .next t) : FollowsContract Config.params i s t := by
  cases i
  case read reg => cases h; exact readRegister_followsContract reg
  case rndSeed v => cases h; exact rndSeed_followsContract v
  case clkUpdate res bpm => cases h; exact clkUpdate_followsContract res bpm
  case clkWrap amount => cases h; exact clkWrap_followsContract amount
  case pgSet idx v => cases h; exact pgSet_followsContract idx v
  case oscSetPitch p => cases h; exact oscSetPitch_followsContract p
  case oscSetShape shape => cases h; exact oscSetShape_followsContract shape
  case oscSetGate g => cases h; exact oscSetGate_followsContract g
  case oscRender => cases h; exact oscRender_followsContract
  -- The other eighteen commands have no contract to break.
  all_goals exact .completes rfl (sameLatch_of_no_causes rfl h)

/-- Settles O9: every command answers a next state, which follows the command's contract. -/
theorem commandsRaiseExactlyTheirCauses : Obligations.CommandsRaiseExactlyTheirCauses := by
  intro i s
  obtain ⟨t, hexec⟩ := exec_answers_next i s
  cases exec_followsContract hexec with
  | breaks hbroken =>
    rw [hbroken]
    exact hexec
  | completes hkept hlatch =>
    rw [hkept]
    exact ⟨t, hexec, hlatch.fault, hlatch.cause, hlatch.faultCmd⟩

end Sys2Proof.CommandContracts
end

section
/-! The state right after reset (spec/70_reset_and_hazards.md R320, R321), and what the host sees of it at the ports
(R58, R33). -/

namespace Sys2Proof.ResetValues

open Sys2Proof.Machine Sys2Proof.HostSide

/-- The oscillator's note as an integer quotient: the floor shift of R12 by seven bits. -/
theorem noteOf_eq_div (p : Half) : noteOf p = BitVec.ofInt 16 (p.toInt / 128) := rfl

theorem fifoFree_of_empty {s : State} (P : Params) (hempty : s.fifo = []) : fifoFree P s = P.fifoDepth := by
  rw [fifoFree, hempty, List.length_nil, Nat.sub_zero]

/-- Settles O1: the unit bodies that reset shares with the INIT commands write the listed values, the note as a shift of
the pitch; with an empty FIFO the whole depth is free. -/
theorem resetLeavesListedValues : Obligations.ResetLeavesListedValues := by
  refine ⟨?elements, fifoFree_of_empty Config.params rfl, portValue_pattern Config.params State.reset⟩
  case elements =>
    rw [← noteOf_eq_div]
    rfl

end Sys2Proof.ResetValues
end
